-- ==== Sys2Proof/Word.lean ====
section
/-! DEFINITION. The widths the spec names (00_scope.md R6) and the plain word types of the model. -/

namespace Sys2Proof

/-- A byte of the bus, of a register address or of a register value (R6). -/
abbrev Byte := BitVec 8

/-- A 7-bit device address (R6). -/
abbrev DevAddr := BitVec 7

/-- A command word `C[63:0]` of the command port (R80). -/
abbrev CommandWord := BitVec 64

/-- A raw sample: 14 bits, read as two's complement (R6, R21). -/
abbrev Raw := BitVec 14

/-- A physical sample or any 16-bit lane; a physical sample is S3.12 fixed point (R6, R22). -/
abbrev Lane := BitVec 16

/-- Three lanes side by side (R135). -/
abbrev Packed := BitVec 48

/-- A 2-bit range code (R6). -/
abbrev RangeCode := BitVec 2

/-- A 3-bit data-rate code (R6). -/
abbrev RateCode := BitVec 3

end Sys2Proof
end

