-- ==== Sys2Proof/Syntax.lean ====
section
/-! DEFINITION. The command set `SRI-ASD command set 1` (30_encoding.md R82, Table 30-2; opcode_table.json): one
constructor per row. -/

namespace Sys2Proof

/-- The five commands with the operands of R83, each at the width its field has. -/
inductive Instr where
  /-- WRREG addr, value (R110). -/
  | wrreg (addr value : Byte)
  /-- RDREG addr (R111). -/
  | rdreg (addr : Byte)
  /-- RDBLK addr, count (R112); the legal counts are 1 to 255 (R83). -/
  | rdblk (addr count : Byte)
  /-- DECODE rng, b0 b1 b2 b3 b4 b5 (R137); the bytes stand in bus order. -/
  | decode (rng : RangeCode) (b0 b1 b2 b3 b4 b5 : Byte)
  /-- ACQUIRE (R138). -/
  | acquire
  deriving DecidableEq, Repr

end Sys2Proof
end

