-- ==== Sys2Proof/WellFormed.lean ====
section
/-! DEFINITION. Which terms of `Instr` are commands of the set: the one operand condition that a field's width does
not already enforce. -/

namespace Sys2Proof

/-- R83, R84 (d): a block read has a count of 1 to 255. Every other field admits every value of its width; a DECODE
with `rng = 3` is legal (R84) and raises `RangeReserved` when it runs. -/
def Instr.wellFormed : Instr → Bool
  | .wrreg _ _ => true
  | .rdreg _ => true
  | .rdblk _ count => count != 0
  | .decode _ _ _ _ _ _ _ => true
  | .acquire => true

end Sys2Proof
end

