-- ==== Sys2Proof/Decode.lean ====
section
/-! DEFINITION. The command decoder (30_encoding.md R80 to R85), total on all 2^64 words and rejecting by name, and
after it the encoder, both written from Tables 30-1, 30-2 and 30-4; and the mask and match rows of opcode_table.json. -/

namespace Sys2Proof

/-- Why a word is illegal: the six cases of R84. -/
inductive DecodeError where
  /-- R84 (a): `OP` is not in Table 30-2. -/
  | unknownOpcode
  /-- R84 (b): WRREG or RDBLK with `C[47:8] != 0`. -/
  | transportPayload
  /-- R84 (c): RDREG with `C[47:0] != 0`. -/
  | readPayload
  /-- R84 (d): RDBLK with count 0. -/
  | countZero
  /-- R84 (e): DECODE with `C[55:50] != 0`. -/
  | decodePadding
  /-- R84 (f): ACQUIRE with `C[55:0] != 0`. -/
  | acquirePadding
  deriving DecidableEq, Repr

/-- `OP = C[63:56]` (R80). -/
def opcodeField (c : CommandWord) : Byte := c.extractLsb' 56 8

/-- `A = C[55:48]` (R80), the `addr` of format T. -/
def addrField (c : CommandWord) : Byte := c.extractLsb' 48 8

/-- `C[7:0]`: `imm8` of format T, `b5` of format D (Table 30-1). -/
def imm8Field (c : CommandWord) : Byte := c.extractLsb' 0 8

/-- `C[47:8]`, must be zero in WRREG and RDBLK (Table 30-1). -/
def transportMbz (c : CommandWord) : BitVec 40 := c.extractLsb' 8 40

/-- `P = C[47:0]` (R80), must be zero in RDREG. -/
def payloadField (c : CommandWord) : BitVec 48 := c.extractLsb' 0 48

/-- `C[55:50]`, must be zero in DECODE (Table 30-1). -/
def decodeMbz (c : CommandWord) : BitVec 6 := c.extractLsb' 50 6

/-- `rng = C[49:48]` of format D (Table 30-1). -/
def rngField (c : CommandWord) : RangeCode := c.extractLsb' 48 2

/-- `C[55:0]`, must be zero in ACQUIRE (Table 30-1). -/
def acquireMbz (c : CommandWord) : BitVec 56 := c.extractLsb' 0 56

/-- `OP` of WRREG (Table 30-2). -/
def opWrreg : Byte := 0x01
/-- `OP` of RDREG (Table 30-2). -/
def opRdreg : Byte := 0x02
/-- `OP` of RDBLK (Table 30-2). -/
def opRdblk : Byte := 0x03
/-- `OP` of DECODE (Table 30-2). -/
def opDecode : Byte := 0x10
/-- `OP` of ACQUIRE (Table 30-2). -/
def opAcquire : Byte := 0x11

/-- R85: the decoding algorithm. -/
def decode (c : CommandWord) : Except DecodeError Instr :=
  if opcodeField c = opWrreg then
    if transportMbz c = 0 then .ok (.wrreg (addrField c) (imm8Field c)) else .error .transportPayload
  else if opcodeField c = opRdreg then
    if payloadField c = 0 then .ok (.rdreg (addrField c)) else .error .readPayload
  else if opcodeField c = opRdblk then
    if transportMbz c = 0 then
      if imm8Field c = 0 then .error .countZero else .ok (.rdblk (addrField c) (imm8Field c))
    else .error .transportPayload
  else if opcodeField c = opDecode then
    if decodeMbz c = 0 then
      .ok (.decode (rngField c) (c.extractLsb' 40 8) (c.extractLsb' 32 8) (c.extractLsb' 24 8)
        (c.extractLsb' 16 8) (c.extractLsb' 8 8) (c.extractLsb' 0 8))
    else .error .decodePadding
  else if opcodeField c = opAcquire then
    if acquireMbz c = 0 then .ok .acquire else .error .acquirePadding
  else .error .unknownOpcode

/-- The word of a command (Table 30-4). -/
def encode : Instr → CommandWord
  | .wrreg addr value => opWrreg ++ addr ++ (0 : BitVec 40) ++ value
  | .rdreg addr => opRdreg ++ addr ++ (0 : BitVec 48)
  | .rdblk addr count => opRdblk ++ addr ++ (0 : BitVec 40) ++ count
  | .decode rng b0 b1 b2 b3 b4 b5 => opDecode ++ (0 : BitVec 6) ++ rng ++ b0 ++ b1 ++ b2 ++ b3 ++ b4 ++ b5
  | .acquire => opAcquire ++ (0 : BitVec 56)

/-- The opcode of a command (Table 30-2). -/
def Instr.opcode : Instr → Byte
  | .wrreg _ _ => opWrreg
  | .rdreg _ => opRdreg
  | .rdblk _ _ => opRdblk
  | .decode _ _ _ _ _ _ _ => opDecode
  | .acquire => opAcquire

/-- One row of opcode_table.json: a word selects it when `C & mask = pattern` (R85). -/
structure OpcodeRow where
  mnemonic : String
  pattern : CommandWord
  mask : CommandWord
  deriving DecidableEq, Repr

/-- The five rows of opcode_table.json, in its order. -/
def opcodeRows : List OpcodeRow :=
  [ ⟨"WRREG", 0x0100000000000000, 0xFF00FFFFFFFFFF00⟩,
    ⟨"RDREG", 0x0200000000000000, 0xFF00FFFFFFFFFFFF⟩,
    ⟨"RDBLK", 0x0300000000000000, 0xFF00FFFFFFFFFF00⟩,
    ⟨"DECODE", 0x1000000000000000, 0xFFFC000000000000⟩,
    ⟨"ACQUIRE", 0x1100000000000000, 0xFFFFFFFFFFFFFFFF⟩ ]

/-- R85: `C & mask = match`, with the extra condition `C[7:0] != 0` of RDBLK, which a mask cannot express. -/
def OpcodeRow.selects (row : OpcodeRow) (c : CommandWord) : Bool :=
  (c &&& row.mask == row.pattern) && (row.mnemonic != "RDBLK" || imm8Field c != 0)

/-- The mnemonic of a command (Table 30-2). -/
def Instr.mnemonic : Instr → String
  | .wrreg _ _ => "WRREG"
  | .rdreg _ => "RDREG"
  | .rdblk _ _ => "RDBLK"
  | .decode _ _ _ _ _ _ _ => "DECODE"
  | .acquire => "ACQUIRE"

/-- What the decoder reads from a word numbered as opcode_table.json numbers it: one 64-bit word, bit 0 its least
significant; the bits from `nbits` up are zero (log 24). -/
def decodeTableWord (nbits w : Nat) : Option Instr :=
  match decode (BitVec.ofNat 64 (w % 2 ^ nbits)) with
  | .ok i => some i
  | .error _ => none

end Sys2Proof
end

