-- ==== Sys2Proof/Machine/Memory.lean ====
section
/-! DEFINITION. The byte store of the MockDevice (20_memory.md R63): 256 byte addresses (10_state.md R32), a list of
cells in canonical form. -/

namespace Sys2Proof.Machine

/-- The cells that differ from what an unlisted address reads as, addresses strictly rising. -/
abbrev Memory := List Host.Cell

/-- What an unlisted address reads as (`95_test_vectors.md` Part 3: "Every MockDevice byte not listed starts at
0x00"). -/
def Memory.unlisted : Byte := 0

/-- The byte at an address (R63). -/
def Memory.read (a : Nat) : Memory → Byte
  | [] => Memory.unlisted
  | c :: rest => if c.1 = a then c.2 else Memory.read a rest

/-- Puts a cell before the others unless its byte is what an unlisted address reads as. -/
def Memory.put (a : Nat) (v : Byte) (rest : Memory) : Memory :=
  if v = Memory.unlisted then rest else (a, v) :: rest

/-- `mem[a] <- v` (R63). -/
def Memory.write (a : Nat) (v : Byte) : Memory → Memory
  | [] => Memory.put a v []
  | c :: rest =>
    if a < c.1 then Memory.put a v (c :: rest)
    else if a = c.1 then Memory.put a v rest
    else c :: Memory.write a v rest

/-- Strictly rising addresses from `lo` on, all below 256 (R32), and no cell equal to the unlisted byte. -/
def Memory.wfFrom (lo : Nat) : Memory → Bool
  | [] => true
  | c :: rest => decide (lo ≤ c.1) && decide (c.1 < 256) && (c.2 != Memory.unlisted) && Memory.wfFrom (c.1 + 1) rest

/-- The canonical form of a store. -/
def Memory.wf (m : Memory) : Bool := Memory.wfFrom 0 m

end Sys2Proof.Machine
end

