-- ==== Sys2Proof/Config.lean ====
section
/-! DEFINITION. What an implementation fixes (00_scope.md R5, Table 00-1) and the free values: opaque constants
without a body, of which nothing can be proved. -/

namespace Sys2Proof

/-- The three axes of a sample (R13). -/
inductive Axis where
  | x
  | y
  | z
  deriving DecidableEq, Repr

/-- How the layer below answers a bus primitive (R50, R51): completed, with the bytes received (none for a write);
failed; or never at all (R232, `93_implementation_defined.md` U12). -/
inductive BusReply where
  | ok (bytes : List Byte)
  | fail
  | never
  deriving DecidableEq, Repr, Inhabited

/-- The parameters of Table 00-1. None has a value in the source; the model carries the record in State as the
constant of the machine described (log 1). -/
structure Config where
  /-- `DEV_ADDR`: the device's fixed bus address (R5, R90). -/
  devAddr : DevAddr
  /-- `REG_OUT_X_MSB`: first of the six output bytes (R41). -/
  regOutXMsb : Byte
  /-- `REG_SYSMOD`: named by the source, used by nothing (R42). -/
  regSysmod : Byte
  /-- `REG_WHO_AM_I`: the identity register (R40). -/
  regWhoAmI : Byte
  /-- `REG_XYZ_DATA_CFG`: the data-config register, range in bits 1:0 (R36). -/
  regXyzDataCfg : Byte
  /-- `REG_PL_STATUS`: the orientation status register (R37). -/
  regPlStatus : Byte
  /-- `REG_PL_CFG`: the orientation config register (R38). -/
  regPlCfg : Byte
  /-- `REG_CTRL1`: the primary control register (R34). -/
  regCtrl1 : Byte
  /-- `REG_CTRL2`: the secondary control register (R35). -/
  regCtrl2 : Byte
  /-- `REG_INT_EN`: first interrupt register (R39). -/
  regIntEn : Byte
  /-- `REG_INT_MAP`: second interrupt register (R39). -/
  regIntMap : Byte
  /-- `DEVICE_ID`: the byte the identity register reads (R40). -/
  deviceId : Byte
  /-- `CTRL2_RESET_MASK`: the device's reset bit (R35). -/
  ctrl2ResetMask : Byte
  /-- `CTRL2_HIRES_VALUE`: high-resolution oversampling (R35). -/
  ctrl2HiresValue : Byte
  /-- `INT_EN_DRDY_VALUE` (R39). -/
  intEnDrdyValue : Byte
  /-- `INT_MAP_DRDY_VALUE` (R39). -/
  intMapDrdyValue : Byte
  /-- `PL_CFG_ENABLE_VALUE` (R38). -/
  plCfgEnableValue : Byte
  /-- `CTRL1_LNOISE_MASK`: the low-noise bit (R34). -/
  ctrl1LnoiseMask : Byte
  /-- `RATE_CODE_MAX_RATE`: the code of the highest rate (R45). -/
  rateCodeMaxRate : RateCode
  /-- `RESET_POLL_MAX`: the bound of the reset poll; `none` is `unbounded` (R171). -/
  resetPollMax : Option Nat
  deriving DecidableEq, Repr, Inhabited

/-- DESIGN CHOICE (log 1), safe: the parameters of the machine after `State.reset`, left open as R5 leaves them. -/
opaque Config.openValues : Config

/-- DESIGN CHOICE (log 6), safe: the `n`-th reply that nothing has fixed (R62: "any list of `n` bytes, under no
law, different on every call if the oracle likes"). -/
opaque Config.freeReply : Nat → BusReply

/-- DESIGN CHOICE (log 2), unsafe: what a RAW register holds after the `k`-th reset, before it is written (R24, R31:
"no value"). -/
opaque Config.unwrittenRaw : Nat → Axis → Raw

/-- DESIGN CHOICE (log 2), unsafe: what a PHYS register holds after the `k`-th reset, before it is written (R24,
R31: "no value"). -/
opaque Config.unwrittenPhys : Nat → Axis → Lane

end Sys2Proof
end

