-- ==== Sys2Proof/Machine/State.lean ====
section
/-! DEFINITION. The state of the whole machine as plain data: the block (10_state.md Table 10-1), the constant of the
machine (00_scope.md Table 00-1), the command port, the device behind the bus, the host; the reasons a step can stop;
and the state after reset. -/

namespace Sys2Proof.Machine

/-- The command sequencer (R26). -/
inductive Seq where
  | idle
  | busy
  deriving DecidableEq, Repr

/-- The state of the block, complete (R20, Table 10-1). -/
structure Block where
  /-- `RAW_X`, `x[0]` (R21). -/
  rawX : Raw
  /-- `RAW_Y`, `x[1]` (R21). -/
  rawY : Raw
  /-- `RAW_Z`, `x[2]` (R21). -/
  rawZ : Raw
  /-- `PHYS_X`, `x[3]`, S3.12 (R22). -/
  physX : Lane
  /-- `PHYS_Y`, `x[4]`, S3.12 (R22). -/
  physY : Lane
  /-- `PHYS_Z`, `x[5]`, S3.12 (R22). -/
  physZ : Lane
  /-- `SAMPLE_VALID` (R24). -/
  sampleValid : Bool
  /-- `SEQ` (R26). -/
  seq : Seq
  /-- `BUS_HELD` (R28). -/
  busHeld : Bool
  deriving DecidableEq, Repr

/-- The faults of the block (R190, Table 60-1, the three with a status code). They end a command, not the machine. -/
inductive CommandFault where
  | transportError
  | illegalCommand
  | rangeReserved
  deriving DecidableEq, Repr

/-- The status of a response (R86, Table 30-3). -/
inductive Status where
  | ok
  | fault (f : CommandFault)
  deriving DecidableEq, Repr

/-- The response record (R86). -/
structure Response where
  status : Status
  data : List Byte
  deriving DecidableEq, Repr

/-- One command with its response (R199). -/
structure Exchange where
  command : CommandWord
  response : Response
  deriving DecidableEq, Repr

/-- One primitive as it reached the bus, with its answer (R50, R51, R115). -/
inductive BusEvent where
  | write (dev : DevAddr) (bytes : List Byte) (hold : Bool) (reply : BusReply)
  | read (dev : DevAddr) (count : Nat) (reply : BusReply)
  deriving DecidableEq, Repr

/-- What a test says of the next primitive of a MockDevice (R63: "unless the test says otherwise"). -/
inductive Verdict where
  | ok
  | fail
  | never
  deriving DecidableEq, Repr

/-- The variant of the fixture for the reset poll (`95_test_vectors.md` P5): the `reads`-th `BusRead` whose pointer is
`reg` answers with the stored byte and then clears `mask` in it. -/
structure SelfClear where
  reg : Byte
  mask : Byte
  reads : Nat
  deriving DecidableEq, Repr

/-- The test fixture of R63. `mem` is the 256-byte store in canonical form (`Memory.wf`). -/
structure MockDevice where
  mem : List Host.Cell
  pointer : Byte
  log : List (Byte × Byte)
  verdicts : List Verdict
  selfClear : Option SelfClear
  deriving DecidableEq, Repr

/-- What answers the primitives. `oracle` is the device of the spec, under no law (R62): the replies fixed so far, and
then the free replies numbered from `draws`. `mock` is the fixture of R63. -/
inductive Device where
  | oracle (replies : List BusReply) (draws : Nat)
  | mock (m : MockDevice)
  deriving DecidableEq, Repr

/-- The RangeSetting values (R13, R44). -/
inductive RangeSetting where
  | g2
  | g4
  | g8
  deriving DecidableEq, Repr

/-- The host's progress `DRV` (R170). -/
inductive Drv where
  | uninitialized
  | probing
  | configuring
  | ready
  deriving DecidableEq, Repr

/-- The host procedures (R92, R161 to R167). -/
inductive Procedure where
  | initialise
  | getRange
  | setRange (r : RangeSetting)
  | getDataRate
  | setDataRate (d : RateCode)
  | getOrientation
  | acquireSample
  deriving DecidableEq, Repr

/-- Where a host procedure stands: the command it has issued and waits for, with the values it remembers (`c`, `r`,
`d`, `k` of the pseudocode of R161 to R167). -/
inductive Job where
  /-- R161: `RDREG REG_WHO_AM_I` issued. -/
  | initIdentity
  /-- R161 step 1 issued. -/
  | initReset
  /-- R161 step 2: a poll read issued, `k` reads answered before it. -/
  | initPoll (k : Nat)
  /-- R161 step 3 issued. -/
  | initRange
  /-- R161 step 4 issued. -/
  | initHires
  /-- R161 step 5, first register issued. -/
  | initIntEn
  /-- R161 step 5, second register issued. -/
  | initIntMap
  /-- R161 step 6 issued. -/
  | initPlCfg
  /-- R161 step 7 issued. -/
  | initActivate
  /-- R162: `RDREG REG_XYZ_DATA_CFG` issued. -/
  | getRange
  /-- R163: `RDREG REG_CTRL1` issued. -/
  | setRangeRead (r : RangeSetting)
  /-- R163: the standby write issued. -/
  | setRangeStandby (r : RangeSetting) (c : Byte)
  /-- R163: the data-config write issued. -/
  | setRangeWrite (c : Byte)
  /-- R163: the restoring write issued. -/
  | setRangeRestore
  /-- R164: `RDREG REG_CTRL1` issued. -/
  | getDataRate
  /-- R165: `RDREG REG_CTRL1` issued. -/
  | setRateRead (d : RateCode)
  /-- R165: the deactivating write issued. -/
  | setRateStandby (d : RateCode) (c : Byte)
  /-- R165: the write of `m` issued. -/
  | setRateModify (d : RateCode) (c : Byte)
  /-- R165: the reactivating write issued. -/
  | setRateRestore
  /-- R166: `RDREG REG_PL_STATUS` issued. -/
  | getOrientation
  /-- R167: `ACQUIRE` issued. -/
  | acquireSample
  deriving DecidableEq, Repr

/-- How a host procedure can fail (R169, R194). -/
inductive HostError where
  | transportError
  | identityMismatch
  | resetTimeout
  deriving DecidableEq, Repr

/-- What a host procedure returns (R161 to R169): the bytes it returns, or `fail(E)`. -/
inductive HostResult where
  | ok (data : List Byte)
  | failed (e : HostError)
  deriving DecidableEq, Repr

/-- The host's own state: `DRV` (R170), the procedure in progress, the results of those that ended, oldest first. -/
structure HostState where
  drv : Drv
  job : Option Job
  results : List HostResult
  deriving DecidableEq, Repr

/-- What the outside does next: present a command word (R80), call a host procedure (R160), reset the block (R220). -/
inductive Input where
  | command (w : CommandWord)
  | call (p : Procedure)
  | reset
  deriving DecidableEq, Repr

/-- The whole machine. -/
structure State where
  /-- The state of the block (R20). -/
  block : Block
  /-- The parameters of the machine, which no step changes (R5, R10). -/
  config : Config
  /-- The word on the command port, if the host presents one (R80). -/
  port : Option CommandWord
  /-- The bus layer and the device behind it (R62, R63). -/
  device : Device
  /-- The bus trace, oldest first (R115). -/
  trace : List BusEvent
  /-- Every command with its response, oldest first (R199). -/
  history : List Exchange
  /-- The host (R170). -/
  host : HostState
  /-- What the outside will do, next first (R27, R233). -/
  inputs : List Input
  /-- How many resets the block has had: the index of the free values of unwritten registers (R24). -/
  resets : Nat
  deriving DecidableEq, Repr

/-- Why a reader of the machine stops with a fault. No step raises one: the faults of the spec are responses
(R197). -/
inductive Fault where
  /-- Raised by the readers of the ports `RAW_PACKED` and `PHYS_PACKED` while `SAMPLE_VALID = 0` (R24: "a fault of the
  claim"). Safe: the reader gets no value where the spec gives none. -/
  | unwrittenSample
  deriving DecidableEq, Repr

/-- Why a step is refused. -/
inductive Refusal where
  /-- Raised by a rejected arm of `exec` only. Safe: the machine stops. -/
  | notModelled (mnemonic : String)
  /-- Raised by `step` when the block is reset while `SEQ = BUSY` (R220; `93_implementation_defined.md` U6, treatment
  `refuse`). Safe: the machine stops where the spec says nothing. -/
  | resetWhileBusy
  deriving DecidableEq, Repr

/-- The block after its `k`-th reset (R31); the sample registers "hold no value" (R24), which is here a free value each
(log 2). -/
def Block.afterReset (k : Nat) : Block :=
  { rawX := Config.unwrittenRaw k .x
    rawY := Config.unwrittenRaw k .y
    rawZ := Config.unwrittenRaw k .z
    physX := Config.unwrittenPhys k .x
    physY := Config.unwrittenPhys k .y
    physZ := Config.unwrittenPhys k .z
    sampleValid := false
    seq := .idle
    busHeld := false }

/-- The machine right after reset: the block as R31 says, the device unknown (R221), `DRV` as R170 says, nothing
presented and nothing done. -/
def State.reset : State :=
  { block := Block.afterReset 0
    config := Config.openValues
    port := none
    device := .oracle [] 0
    trace := []
    history := []
    host := { drv := .uninitialized, job := none, results := [] }
    inputs := []
    resets := 0 }

end Sys2Proof.Machine
end

