-- ==== Sys2Proof/Machine/Bus.lean ====
section
/-! DEFINITION. How the layer below answers the two primitives (20_memory.md R50, R51): the oracle of R62 and the
MockDevice of R63. -/

namespace Sys2Proof.Machine

/-- The answer to a `BusWrite`: ok, without bytes, or fail (R50), or never. -/
def writeAnswer : BusReply → BusReply
  | .ok _ => .ok []
  | .fail => .fail
  | .never => .never

/-- The answer to a `BusRead` of `n` bytes: exactly `n` bytes, or fail; "a short read is `fail`" (R51), and so is any
other length (log 7); or never. -/
def readAnswer (n : Nat) : BusReply → BusReply
  | .ok bytes => if bytes.length = n then .ok bytes else .fail
  | .fail => .fail
  | .never => .never

/-- What the test says of the next primitive: ok when it says nothing (R63). -/
def MockDevice.verdict (m : MockDevice) : Verdict := m.verdicts.headD .ok

/-- The fixture with one verdict used up. -/
def MockDevice.spend (m : MockDevice) : MockDevice := { m with verdicts := m.verdicts.tail }

/-- What a completed `BusWrite` does to the fixture (R63): two bytes without hold store and log, one byte with hold
sets the pointer. The block sends no other frame (R115). -/
def MockDevice.take (bytes : List Byte) (hold : Bool) (m : MockDevice) : MockDevice :=
  match bytes, hold with
  | [a, v], false => { m with mem := Memory.write a.toNat v m.mem, log := m.log ++ [(a, v)] }
  | [a], true => { m with pointer := a }
  | _, _ => m

/-- The bytes of a `BusRead` of `n` (R63): auto-increment from the pointer with wrap mod 256. -/
def MockDevice.bytes (n : Nat) (m : MockDevice) : List Byte :=
  (List.range n).map fun k => Memory.read ((m.pointer.toNat + k) % 256) m.mem

/-- What a completed `BusRead` does to the fixture: nothing (R63), but for the self-clearing variant
(`95_test_vectors.md` P5). -/
def MockDevice.afterRead (m : MockDevice) : MockDevice :=
  match m.selfClear with
  | none => m
  | some sc =>
    if m.pointer = sc.reg then
      if sc.reads ≤ 1 then
        { m with
          mem := Memory.write sc.reg.toNat (Memory.read sc.reg.toNat m.mem &&& ~~~sc.mask) m.mem
          selfClear := none }
      else { m with selfClear := some { sc with reads := sc.reads - 1 } }
    else m

/-- `BusWrite` as the fixture answers it (R63). A failing primitive leaves its store as it was (log 17). -/
def MockDevice.write (bytes : List Byte) (hold : Bool) (m : MockDevice) : BusReply × MockDevice :=
  match m.verdict with
  | .ok => (.ok [], m.spend.take bytes hold)
  | .fail => (.fail, m.spend)
  | .never => (.never, m.spend)

/-- `BusRead` as the fixture answers it (R63). -/
def MockDevice.read (n : Nat) (m : MockDevice) : BusReply × MockDevice :=
  match m.verdict with
  | .ok => (.ok (m.bytes n), m.spend.afterRead)
  | .fail => (.fail, m.spend)
  | .never => (.never, m.spend)

/-- The next reply of the oracle and the oracle after it (R62): the replies fixed so far, then free ones. -/
def oracleReply : List BusReply → Nat → BusReply × Device
  | r :: rest, draws => (r, .oracle rest draws)
  | [], draws => (Config.freeReply draws, .oracle [] (draws + 1))

/-- The answer to a `BusWrite` and the device after it. -/
def Device.write (bytes : List Byte) (hold : Bool) : Device → BusReply × Device
  | .oracle replies draws => (writeAnswer (oracleReply replies draws).1, (oracleReply replies draws).2)
  | .mock m => ((m.write bytes hold).1, .mock (m.write bytes hold).2)

/-- The answer to a `BusRead` of `n` bytes and the device after it. -/
def Device.read (n : Nat) : Device → BusReply × Device
  | .oracle replies draws => (readAnswer n (oracleReply replies draws).1, (oracleReply replies draws).2)
  | .mock m => ((m.read n).1, .mock (m.read n).2)

/-- The fixture's store is canonical; the oracle has no store. -/
def Device.wf : Device → Bool
  | .oracle _ _ => true
  | .mock m => Memory.wf m.mem

/-- The reply the `j`-th primitive from here will get, as far as whether it returns goes: R232's question. -/
def Device.returnsAt (j : Nat) : Device → Prop
  | .oracle replies draws =>
    (if j < replies.length then replies.getD j .fail else Config.freeReply (draws + (j - replies.length))) ≠ .never
  | .mock m => m.verdicts.getD j .ok ≠ .never

end Sys2Proof.Machine
end

