-- ==== Sys2Proof/Machine/Operands.lean ====
section
/-! DEFINITION. The operand forms and the pure pipeline of the sample decoder (41_decoder.md R130 to R136), and the
codes of 30_encoding.md Table 30-3 and 10_state.md R44. -/

namespace Sys2Proof.Machine

/-- Six bytes in bus order: X MSB, X LSB, Y MSB, Y LSB, Z MSB, Z LSB (R41, R55). -/
structure Burst where
  b0 : Byte
  b1 : Byte
  b2 : Byte
  b3 : Byte
  b4 : Byte
  b5 : Byte
  deriving DecidableEq, Repr

/-- Byte `k` of a list of bytes; the block indexes only lists that are long enough (R51: "exactly `n` bytes"). -/
def byteAt (bytes : List Byte) (k : Nat) : Byte := bytes.getD k 0

/-- The six bytes of a burst read (R55). -/
def Burst.ofBytes (bytes : List Byte) : Burst :=
  ⟨byteAt bytes 0, byteAt bytes 1, byteAt bytes 2, byteAt bytes 3, byteAt bytes 4, byteAt bytes 5⟩

/-- The 16-bit word of one axis, `hi` from the lower register address (R55, R130). -/
def axisWord (hi lo : Byte) : Lane := hi ++ lo

/-- Stage 1 (R130): bits 15:2 of the axis word. -/
def unpack14bSigned (hi lo : Byte) : Raw := (axisWord hi lo).extractLsb' 2 14

/-- R44, R132: the range of a code; code 3 is reserved. UNVERIFIED (log 18): the assignment is the spec's decision D4. -/
def RangeSetting.ofCode (rng : RangeCode) : Option RangeSetting :=
  if rng = 0 then some .g2 else if rng = 1 then some .g4 else if rng = 2 then some .g8 else none

/-- R44: the code of a range. -/
def RangeSetting.code : RangeSetting → RangeCode
  | .g2 => 0
  | .g4 => 1
  | .g8 => 2

/-- R132: the divisor of a range. -/
def RangeSetting.divisor : RangeSetting → Nat
  | .g2 => 4096
  | .g4 => 2048
  | .g8 => 1024

/-- R132, R133: the shift of a range. -/
def RangeSetting.shift : RangeSetting → Nat
  | .g2 => 0
  | .g4 => 1
  | .g8 => 2

/-- `sext_16` of a raw value (R7, R131: never `zext`). -/
def sext16 (raw : Raw) : Lane := raw.signExtend 16

/-- Stage 2 (R133). -/
def applyScaleFactor (raw : Raw) (r : RangeSetting) : Lane := sext16 raw <<< r.shift

/-- The real number an S3.12 pattern stands for, in units of g (R14, R133). -/
def gValue (p : Lane) : ℚ := (p.toInt : ℚ) / 4096

/-- Stage 3 (R135): X in bits 47:32, Y in bits 31:16, Z in bits 15:0. -/
def packXyz (x y z : Lane) : Packed := x ++ y ++ z

/-- The six bytes of a packed word, most significant first (R87). -/
def packedBytes (p : Packed) : List Byte :=
  [p.extractLsb' 40 8, p.extractLsb' 32 8, p.extractLsb' 24 8, p.extractLsb' 16 8, p.extractLsb' 8 8, p.extractLsb' 0 8]

/-- The range code in a data-config byte: bits 1:0, the other bits ignored (R36, R138). -/
def rangeField (dataCfg : Byte) : RangeCode := dataCfg.extractLsb' 0 2

/-- One axis of the raw sample (R21). -/
def Block.raw (b : Block) : Axis → Raw
  | .x => b.rawX
  | .y => b.rawY
  | .z => b.rawZ

/-- One axis of the physical sample (R22). -/
def Block.phys (b : Block) : Axis → Lane
  | .x => b.physX
  | .y => b.physY
  | .z => b.physZ

/-- What port `RAW_PACKED` carries (R25). -/
def Block.rawPacked (b : Block) : Packed := packXyz (sext16 b.rawX) (sext16 b.rawY) (sext16 b.rawZ)

/-- What port `PHYS_PACKED` carries (R25). -/
def Block.physPacked (b : Block) : Packed := packXyz b.physX b.physY b.physZ

/-- A read of port `RAW_PACKED` (R24, R25): while `SAMPLE_VALID = 0` the spec makes the read a fault of the claim that
reads (R24, D16, U8; log 3). No command reads a port, so no step raises it. -/
def Block.readRawPacked (b : Block) : Except Fault Packed :=
  if b.sampleValid then .ok b.rawPacked else .error .unwrittenSample

/-- A read of port `PHYS_PACKED` (R24, R25, D16, U8; log 3). -/
def Block.readPhysPacked (b : Block) : Except Fault Packed :=
  if b.sampleValid then .ok b.physPacked else .error .unwrittenSample

/-- The status code of a fault (Table 60-1). -/
def CommandFault.code : CommandFault → BitVec 4
  | .transportError => 1
  | .illegalCommand => 2
  | .rangeReserved => 3

/-- The 4-bit status code (Table 30-3). -/
def Status.code : Status → BitVec 4
  | .ok => 0
  | .fault f => f.code

end Sys2Proof.Machine
end

