-- ==== Sys2Proof/Machine/Flags.lean ====
section
/-! DEFINITION. The one flag of the block, `SAMPLE_VALID` (10_state.md R24), and the write of the sample registers that
sets it in the same step (41_decoder.md R137, R138, R140). -/

namespace Sys2Proof.Machine

/-- `SAMPLE_VALID <- 1` (R24): a DECODE or ACQUIRE that ends with status OK sets it; nothing but reset clears it. -/
def Block.setSampleValid (b : Block) : Block := { b with sampleValid := true }

/-- R137, R138: the six sample registers and `SAMPLE_VALID`, "one step, all seven together", for a command that ends
with status OK. -/
def Block.storeSample (burst : Burst) (r : RangeSetting) (b : Block) : Block :=
  { b.setSampleValid with
    rawX := unpack14bSigned burst.b0 burst.b1
    rawY := unpack14bSigned burst.b2 burst.b3
    rawZ := unpack14bSigned burst.b4 burst.b5
    physX := applyScaleFactor (unpack14bSigned burst.b0 burst.b1) r
    physY := applyScaleFactor (unpack14bSigned burst.b2 burst.b3) r
    physZ := applyScaleFactor (unpack14bSigned burst.b4 burst.b5) r }

end Sys2Proof.Machine
end

