-- ==== Sys2Proof/Machine/Ops.lean ====
section
/-! DEFINITION. The shared operations of the block: accepting a command, the primitives and transactions of
20_memory.md, ending a command with its response, and taking a fault (60_exceptions.md R197); and the reset of the
block (70_reset_and_hazards.md R220). -/

namespace Sys2Proof.Machine

/-- Accepting a command sets `SEQ <- BUSY` (R26). -/
def State.accept (s : State) : State :=
  { s with block := { s.block with seq := .busy } }

/-- `respond(status, data)`: delivers the response and sets `SEQ <- IDLE` (R8, R26, R86). -/
def State.respond (cmd : CommandWord) (status : Status) (data : List Byte) (s : State) : State :=
  { s with
    block := { s.block with seq := .idle }
    history := s.history ++ [⟨cmd, ⟨status, data⟩⟩] }

/-- Taking a fault, `raise F` (R197): the response `(code of F, [])` and `SEQ <- IDLE`; nothing is saved, no register
and no flag changes, and control goes nowhere. There is no return from it (R198): the block is idle. -/
def State.takeFault (cmd : CommandWord) (f : CommandFault) (s : State) : State :=
  s.respond cmd (.fault f) []

/-- `BUS_HELD` after a `BusWrite` (R50); a failure leaves it released (log 8). A write that never returns leaves it as it was (R28, log 5). -/
def heldAfterWrite (hold : Bool) (reply : BusReply) (before : Bool) : Bool :=
  match reply with
  | .ok _ => hold
  | .fail => false
  | .never => before

/-- `BUS_HELD` after a `BusRead` (R51): released in every case. A read that never returns has not ended (R28, log 5). -/
def heldAfterRead (reply : BusReply) (before : Bool) : Bool :=
  match reply with
  | .ok _ => false
  | .fail => false
  | .never => before

/-- `BusWrite(dev, bytes, hold)` (R50). -/
def State.busWrite (dev : DevAddr) (bytes : List Byte) (hold : Bool) (s : State) : BusReply × State :=
  ((s.device.write bytes hold).1,
   { s with
     block := { s.block with busHeld := heldAfterWrite hold (s.device.write bytes hold).1 s.block.busHeld }
     device := (s.device.write bytes hold).2
     trace := s.trace ++ [.write dev bytes hold (s.device.write bytes hold).1] })

/-- `BusRead(dev, n)` (R51). -/
def State.busRead (dev : DevAddr) (n : Nat) (s : State) : BusReply × State :=
  ((s.device.read n).1,
   { s with
     block := { s.block with busHeld := heldAfterRead (s.device.read n).1 s.block.busHeld }
     device := (s.device.read n).2
     trace := s.trace ++ [.read dev n (s.device.read n).1] })

/-- `MemWrite(addr, 1, v)`, the register write transaction (R53, R88). -/
def State.memWrite (addr value : Byte) (s : State) : BusReply × State :=
  s.busWrite s.config.devAddr [addr, value] false

/-- `MemRead(addr, n)`, the register read transaction (R52, R89): the address with the bus held, then the read; no read
is issued unless the write completed. -/
def State.memRead (addr : Byte) (n : Nat) (s : State) : BusReply × State :=
  match s.busWrite s.config.devAddr [addr] true with
  | (.ok _, t) => t.busRead t.config.devAddr n
  | (.fail, t) => (.fail, t)
  | (.never, t) => (.never, t)

/-- Goes on after a transaction: with its bytes if it completed; `raise TransportError` if it failed (R52, R53, R191);
and where a primitive never returned, the command stays where it is, `SEQ = BUSY` (R114, R232; log 5). -/
def afterTransaction (cmd : CommandWord) (r : BusReply × State) (next : List Byte → State → State) : State :=
  match r.1 with
  | .ok bytes => next bytes r.2
  | .fail => r.2.takeFault cmd .transportError
  | .never => r.2

/-- The answer to an illegal word (R84, R192): accepted, no primitive, `IllegalCommand`. -/
def State.rejectIllegal (cmd : CommandWord) (s : State) : State :=
  s.accept.takeFault cmd .illegalCommand

/-- The last part of DECODE and ACQUIRE (R137, R138): `RangeReserved` on code 3, else the pipeline, the seven written
in one step (R140), and the 12 bytes of R87. -/
def State.finishSample (cmd : CommandWord) (rng : RangeCode) (burst : Burst) (s : State) : State :=
  match RangeSetting.ofCode rng with
  | none => s.takeFault cmd .rangeReserved
  | some r =>
    { s with block := s.block.storeSample burst r }.respond cmd .ok
      (packedBytes (s.block.storeSample burst r).rawPacked ++ packedBytes (s.block.storeSample burst r).physPacked)

/-- Reset of the block (R220): the state of R31; no bus primitive, the device and `Config` untouched, and so is
everything outside the block (log 11). -/
def State.resetBlock (s : State) : State :=
  { s with
    block := Block.afterReset (s.resets + 1)
    resets := s.resets + 1 }

end Sys2Proof.Machine
end

