-- ==== Sys2Proof/Machine/Sample.lean ====
section
/-! DEFINITION. The commands that run the sample pipeline (41_decoder.md R137, R138). -/

namespace Sys2Proof.Machine

/-- DECODE (R137): no bus activity. -/
def execDecode (rng : RangeCode) (b0 b1 b2 b3 b4 b5 : Byte) (s : State) : Host.Outcome State Fault Refusal :=
  .next (s.accept.finishSample (encode (.decode rng b0 b1 b2 b3 b4 b5)) rng ⟨b0, b1, b2, b3, b4, b5⟩)

/-- ACQUIRE (R138): the burst, then the live range, then the pipeline. -/
def execAcquire (s : State) : Host.Outcome State Fault Refusal :=
  .next (afterTransaction (encode .acquire) (s.accept.memRead s.config.regOutXMsb 6) fun burst t =>
    afterTransaction (encode .acquire) (t.memRead t.config.regXyzDataCfg 1) fun dataCfg u =>
      u.finishSample (encode .acquire) (rangeField (byteAt dataCfg 0)) (Burst.ofBytes burst))

end Sys2Proof.Machine
end

