-- ==== Sys2Proof/Machine/Transport.lean ====
section
/-! DEFINITION. The transport commands (40_transport.md R110 to R112). -/

namespace Sys2Proof.Machine

/-- WRREG (R110). -/
def execWrreg (addr value : Byte) (s : State) : Host.Outcome State Fault Refusal :=
  .next (afterTransaction (encode (.wrreg addr value)) (s.accept.memWrite addr value) fun _ t =>
    t.respond (encode (.wrreg addr value)) .ok [])

/-- RDREG (R111): the byte is returned whole. -/
def execRdreg (addr : Byte) (s : State) : Host.Outcome State Fault Refusal :=
  .next (afterTransaction (encode (.rdreg addr)) (s.accept.memRead addr 1) fun bytes t =>
    t.respond (encode (.rdreg addr)) .ok bytes)

/-- RDBLK (R112): one transaction of `count` bytes; count 0 is `IllegalCommand` before any bus activity (R84;
log 15). -/
def execRdblk (addr count : Byte) (s : State) : Host.Outcome State Fault Refusal :=
  .next (if count = 0 then s.rejectIllegal (encode (.rdblk addr count))
    else afterTransaction (encode (.rdblk addr count)) (s.accept.memRead addr count.toNat) fun bytes t =>
      t.respond (encode (.rdblk addr count)) .ok bytes)

end Sys2Proof.Machine
end

