-- ==== Sys2Proof/Machine/Dispatch.lean ====
section
/-! DEFINITION. One arm per command. -/

namespace Sys2Proof.Machine

def exec (i : Instr) (s : State) : Host.Outcome State Fault Refusal :=
  match i with
  | .wrreg addr value => Sys2Proof.Machine.execWrreg addr value s
  | .rdreg addr => Sys2Proof.Machine.execRdreg addr s
  | .rdblk addr count => Sys2Proof.Machine.execRdblk addr count s
  | .decode rng b0 b1 b2 b3 b4 b5 => Sys2Proof.Machine.execDecode rng b0 b1 b2 b3 b4 b5 s
  | .acquire => Sys2Proof.Machine.execAcquire s

end Sys2Proof.Machine
end

