-- ==== Sys2Proof/Machine/HostProcedures.lean ====
section
/-! DEFINITION. The host agent: the driver's procedures over the block (42_host_sequences.md R160 to R172), each a
sequence of commands with the host's computations between them. -/

namespace Sys2Proof.Machine

/-- What the host does when a procedure starts or a response arrives: present the next command and wait, or end. -/
inductive HostMove where
  | issue (i : Instr) (job : Job)
  | finish (r : HostResult)
  deriving DecidableEq, Repr

/-- One turn of the host: its move and `DRV` after it (log 16). -/
structure HostTurn where
  move : HostMove
  drv : Drv
  deriving DecidableEq, Repr

/-- The first command of a procedure (R161 to R167). -/
def Procedure.start (cfg : Config) (drv : Drv) : Procedure → HostTurn
  | .initialise => ⟨.issue (.rdreg cfg.regWhoAmI) .initIdentity, .probing⟩
  | .getRange => ⟨.issue (.rdreg cfg.regXyzDataCfg) .getRange, drv⟩
  | .setRange r => ⟨.issue (.rdreg cfg.regCtrl1) (.setRangeRead r), drv⟩
  | .getDataRate => ⟨.issue (.rdreg cfg.regCtrl1) .getDataRate, drv⟩
  | .setDataRate d => ⟨.issue (.rdreg cfg.regCtrl1) (.setRateRead d), drv⟩
  | .getOrientation => ⟨.issue (.rdreg cfg.regPlStatus) .getOrientation, drv⟩
  | .acquireSample => ⟨.issue .acquire .acquireSample, drv⟩

/-- R161 step 7: active, low-noise, the highest rate. -/
def activateByte (cfg : Config) : Byte :=
  0x01 ||| cfg.ctrl1LnoiseMask ||| (cfg.rateCodeMaxRate.setWidth 8 <<< 3)

/-- R163: the data-config byte `0b000000rr`. -/
def rangeByte (r : RangeSetting) : Byte := r.code.setWidth 8

/-- R165: `m`, rate bits and active bit cleared, then the new rate. -/
def rateByte (c : Byte) (d : RateCode) : Byte := (c &&& 0xC6) ||| (d.setWidth 8 <<< 3)

/-- R161 step 2: one poll has been answered with `c`; `k` polls were answered before it (log 23). -/
def pollTurn (cfg : Config) (k : Nat) (c : Byte) (drv : Drv) : HostTurn :=
  if c &&& cfg.ctrl2ResetMask ≠ 0 then
    if cfg.resetPollMax = some (k + 1) then ⟨.finish (.failed .resetTimeout), .uninitialized⟩
    else ⟨.issue (.rdreg cfg.regCtrl2) (.initPoll (k + 1)), drv⟩
  else ⟨.issue (.wrreg cfg.regXyzDataCfg 0x01) .initRange, drv⟩

/-- The host's turn after its command ended with OK and this data (R161 to R167). -/
def Job.onOk (cfg : Config) (drv : Drv) (data : List Byte) : Job → HostTurn
  | .initIdentity =>
    if byteAt data 0 ≠ cfg.deviceId then ⟨.finish (.failed .identityMismatch), .uninitialized⟩
    else ⟨.issue (.wrreg cfg.regCtrl2 cfg.ctrl2ResetMask) .initReset, .configuring⟩
  | .initReset => ⟨.issue (.rdreg cfg.regCtrl2) (.initPoll 0), drv⟩
  | .initPoll k => pollTurn cfg k (byteAt data 0) drv
  | .initRange => ⟨.issue (.wrreg cfg.regCtrl2 cfg.ctrl2HiresValue) .initHires, drv⟩
  | .initHires => ⟨.issue (.wrreg cfg.regIntEn cfg.intEnDrdyValue) .initIntEn, drv⟩
  | .initIntEn => ⟨.issue (.wrreg cfg.regIntMap cfg.intMapDrdyValue) .initIntMap, drv⟩
  | .initIntMap => ⟨.issue (.wrreg cfg.regPlCfg cfg.plCfgEnableValue) .initPlCfg, drv⟩
  | .initPlCfg => ⟨.issue (.wrreg cfg.regCtrl1 (activateByte cfg)) .initActivate, drv⟩
  | .initActivate => ⟨.finish (.ok []), .ready⟩
  | .getRange => ⟨.finish (.ok [byteAt data 0 &&& 0x03]), drv⟩
  | .setRangeRead r => ⟨.issue (.wrreg cfg.regCtrl1 (byteAt data 0 &&& 0xFE)) (.setRangeStandby r (byteAt data 0)), drv⟩
  | .setRangeStandby r c => ⟨.issue (.wrreg cfg.regXyzDataCfg (rangeByte r)) (.setRangeWrite c), drv⟩
  | .setRangeWrite c => ⟨.issue (.wrreg cfg.regCtrl1 c) .setRangeRestore, drv⟩
  | .setRangeRestore => ⟨.finish (.ok []), drv⟩
  | .getDataRate => ⟨.finish (.ok [(byteAt data 0 >>> 3) &&& 0x07]), drv⟩
  | .setRateRead d => ⟨.issue (.wrreg cfg.regCtrl1 (byteAt data 0 &&& 0xFE)) (.setRateStandby d (byteAt data 0)), drv⟩
  | .setRateStandby d c => ⟨.issue (.wrreg cfg.regCtrl1 (rateByte c d)) (.setRateModify d c), drv⟩
  | .setRateModify d c => ⟨.issue (.wrreg cfg.regCtrl1 (rateByte c d ||| (c &&& 0x01))) .setRateRestore, drv⟩
  | .setRateRestore => ⟨.finish (.ok []), drv⟩
  | .getOrientation => ⟨.finish (.ok [byteAt data 0 &&& 0x07]), drv⟩
  | .acquireSample => ⟨.finish (.ok data), drv⟩

/-- Whether a job belongs to INITIALIZE (R161). -/
def Job.isInit : Job → Bool
  | .initIdentity | .initReset | .initPoll _ | .initRange | .initHires | .initIntEn | .initIntMap | .initPlCfg
  | .initActivate => true
  | .getRange | .setRangeRead _ | .setRangeStandby _ _ | .setRangeWrite _ | .setRangeRestore | .getDataRate
  | .setRateRead _ | .setRateStandby _ _ | .setRateModify _ _ | .setRateRestore | .getOrientation
  | .acquireSample => false

/-- The host's turn when the response to its command arrives: a status other than OK ends the procedure at once with
`fail(TransportError)` (R169; log 21), and in INITIALIZE sets `DRV <- Uninitialized` (R161). -/
def Job.resume (cfg : Config) (drv : Drv) (response : Response) (job : Job) : HostTurn :=
  match response.status with
  | .ok => job.onOk cfg drv response.data
  | .fault _ => ⟨.finish (.failed .transportError), if job.isInit then .uninitialized else drv⟩

/-- The host carries out a turn: it presents the next command's word on the command port, or records the result. -/
def State.hostTurn (turn : HostTurn) (s : State) : State :=
  match turn.move with
  | .issue i job =>
    { s with
      port := some (encode i)
      host := { s.host with drv := turn.drv, job := some job } }
  | .finish r =>
    { s with host := { drv := turn.drv, job := none, results := s.host.results ++ [r] } }

/-- The response the host reads: that of the last command (R86, R199). -/
def State.lastResponse (s : State) : Option Response := s.history.getLast?.map (·.response)

/-- A host in a procedure takes its turn when its response is there, and waits while it is not (log 22). -/
def State.resumeJob (job : Job) (s : State) : State :=
  match s.lastResponse with
  | some response => s.hostTurn (job.resume s.config s.host.drv response)
  | none => s

/-- The next thing the outside does, when the host is in no procedure; with nothing to do the block stays idle and
keeps its state (R205). -/
def State.takeInput (s : State) : State :=
  match s.inputs with
  | [] => s
  | .command w :: rest => { s with port := some w, inputs := rest }
  | .call p :: rest => { s with inputs := rest }.hostTurn (p.start s.config s.host.drv)
  | .reset :: rest => { s with inputs := rest }.resetBlock

/-- The outside moves while the block is idle and nothing is presented. -/
def State.hostStep (s : State) : State :=
  match s.host.job with
  | some job => s.resumeJob job
  | none => s.takeInput

end Sys2Proof.Machine
end

