-- ==== Sys2Proof/Machine/Run.lean ====
section
/-! DEFINITION. The parts of a step: running the word on the command port, and what happens while a command that does
not end is in progress. -/

namespace Sys2Proof.Machine

/-- The block takes the word from the command port and runs it: the command it decodes to, or `IllegalCommand` (R84,
R85, R192). -/
def runWord (w : CommandWord) (s : State) : Host.Outcome State Fault Refusal :=
  match decode w with
  | .ok i => exec i s
  | .error _ => .next (s.rejectIllegal w)

/-- `SEQ = BUSY`: "the command port accepts nothing and there is no queue" (R26); the command in progress is one whose
primitive never returned (R114, R232; log 5). A reset here is refused (R220, U6; log 12). -/
def busyStep (s : State) : Host.Outcome State Fault Refusal :=
  if s.inputs.head? = some .reset then .refused .resetWhileBusy else .next s

/-- `SEQ = IDLE`: the block runs the word presented (R26, R80), or, with none presented, the outside moves. -/
def idleStep (s : State) : Host.Outcome State Fault Refusal :=
  match s.port with
  | some w => runWord w { s with port := none }
  | none => .next s.hostStep

/-- The machine with a word on its command port, ready to accept it: what a host does that presents it (R80). -/
def presentWord (w : CommandWord) (s : State) : State :=
  { s with
    port := some w
    block := { s.block with seq := .idle } }

end Sys2Proof.Machine
end

