-- ==== Sys2Proof/Machine/Step.lean ====
section
/-! DEFINITION. One step of the machine: a whole command of the block, or one move of the host. -/

namespace Sys2Proof.Machine

/-- One step: which agent moves is read off the state (R9); a whole command is one step (log 4). -/
def step (s : State) : Host.Outcome State Fault Refusal :=
  match s.block.seq with
  | .idle => idleStep s
  | .busy => busyStep s

/-- The state with a word presented so that the very next step accepts and runs it (log 10). -/
def State.withFetchWord (s : State) (nbits w : Nat) : State :=
  presentWord (BitVec.ofNat 64 (w % 2 ^ nbits)) s

end Sys2Proof.Machine
end

