-- ==== Sys2Proof/Machine/Profile.lean ====
section
/-! DEFINITION. The constraints of 00_scope.md Table 00-1 and the "gk profile" of 93_implementation_defined.md (G1, G2,
G3, G5, G8), used by tests only; no step depends on either. -/

namespace Sys2Proof.Machine

/-- "Exactly one bit set" (Table 00-1). -/
def oneBitSet (b : Byte) : Bool := (List.range 8).countP (fun k => b.getLsbD k) == 1

/-- The last column of Table 00-1: the reset mask is one bit, the high-resolution value has that bit 0, the low-noise
mask is one bit and neither bit 0 nor one of bits 5:3. A premise a claim may take (log 25). -/
def configWf (c : Config) : Bool :=
  oneBitSet c.ctrl2ResetMask && (c.ctrl2HiresValue &&& c.ctrl2ResetMask == 0) &&
    oneBitSet c.ctrl1LnoiseMask && (c.ctrl1LnoiseMask &&& 0x39 == 0)

/-- PRESUMED (log 19): the gk profile, `[from general knowledge, not in source]`; the reset poll is unbounded, as in
the reference (R171). -/
def gkConfig : Config :=
  { devAddr := 0x1D
    regOutXMsb := 0x01
    regSysmod := 0x0B
    regWhoAmI := 0x0D
    regXyzDataCfg := 0x0E
    regPlStatus := 0x10
    regPlCfg := 0x11
    regCtrl1 := 0x2A
    regCtrl2 := 0x2B
    regIntEn := 0x2D
    regIntMap := 0x2E
    deviceId := 0x1A
    ctrl2ResetMask := 0x40
    ctrl2HiresValue := 0x02
    intEnDrdyValue := 0x01
    intMapDrdyValue := 0x01
    plCfgEnableValue := 0x40
    ctrl1LnoiseMask := 0x04
    rateCodeMaxRate := 0
    resetPollMax := none }

end Sys2Proof.Machine
end

