-- ==== Sys2Proof/Machine/DeviceRegisters.lean ====
section
/-! DEFINITION. The fields of the device's registers as far as the spec locates them (10_state.md R34 to R41), and the
laws of the device that a claim may assume by name (R35, R40, R43). They are premises, never facts of the machine
(20_memory.md R62). -/

namespace Sys2Proof.Machine

/-- Bit 0 of `REG_CTRL1`, 1 = active (R34). -/
def ctrl1Active (c : Byte) : Bool := c.getLsbD 0

/-- Bits 5:3 of `REG_CTRL1`, the data-rate code (R34, R45). -/
def ctrl1Rate (c : Byte) : RateCode := c.extractLsb' 3 3

/-- Bits 2:0 of `REG_PL_STATUS`, the orientation code (R37, R46). -/
def orientationField (c : Byte) : BitVec 3 := c.extractLsb' 0 3

/-- One access of a register, as the bus trace shows it. -/
inductive RegAccess where
  /-- A register write that completed (R53). -/
  | wrote (addr value : Byte)
  /-- A register write that did not complete, of which "the block cannot tell whether the device received zero, one or
  two bytes" (R110). -/
  | mayHaveWritten (addr value : Byte)
  /-- A register read that completed (R52), with the byte it gave. -/
  | readAs (addr value : Byte)
  deriving DecidableEq, Repr

/-- The register accesses of a bus trace, in order; of a burst, its first register (log 26). -/
def accesses : List BusEvent → List RegAccess
  | [] => []
  | .write _ [a, v] false (.ok _) :: rest => .wrote a v :: accesses rest
  | .write _ [a, v] false .fail :: rest => .mayHaveWritten a v :: accesses rest
  | .write _ [a, v] false .never :: rest => .mayHaveWritten a v :: accesses rest
  | .write _ [a] true (.ok _) :: .read _ _ (.ok (v :: _)) :: rest => .readAs a v :: accesses rest
  | _ :: rest => accesses rest

/-- The ten registers of Table 10-2 stand at ten different addresses. A premise a claim may take (log 25). -/
def registersApart (cfg : Config) : Prop :=
  [cfg.regOutXMsb, cfg.regSysmod, cfg.regWhoAmI, cfg.regXyzDataCfg, cfg.regPlStatus, cfg.regPlCfg, cfg.regCtrl1,
    cfg.regCtrl2, cfg.regIntEn, cfg.regIntMap].Nodup

/-- R40: the identity register reads `DEVICE_ID`. -/
def identityLaw (cfg : Config) (log : List RegAccess) : Prop :=
  ∀ v, .readAs cfg.regWhoAmI v ∈ log → v = cfg.deviceId

/-- R35: the reset bit of a byte of `REG_CTRL2`. Written as 1 it starts a device reset; it reads 1 while the reset runs. -/
abbrev resetBitSet (cfg : Config) (c : Byte) : Prop := c &&& cfg.ctrl2ResetMask ≠ 0

/-- What the accesses so far say of the device's own reset (R35). -/
inductive ResetPhase where
  /-- No device reset runs: the reset bit reads 0. -/
  | settled
  /-- A reset runs; at most `readsLeft` more reads of `REG_CTRL2` show the bit as 1. -/
  | running (readsLeft : Nat)
  /-- It is not known whether a reset runs. -/
  | unknown
  deriving DecidableEq, Repr

/-- What the accesses so far say of the device: `active`, the active bit (R34); `range`, the range it holds (R36);
`phase`. A field is `none` where the spec leaves the value open (log 26). -/
structure DeviceView where
  active : Option Bool
  range : Option RangeCode
  phase : ResetPhase
  deriving DecidableEq, Repr

/-- What a claim may assume of the device where the spec gives no value. `resetReads`: how many reads of `REG_CTRL2` can
show the reset bit as 1 during one reset ("the reset bit reads 0 after finitely many reads", R171). `activeAfterReset`:
the active bit once a device reset is over; `none`, any value, as the reset values are not in the source
(`91_not_in_source.md` N7), or `some false`, as R161 reads the source ("the device is not active before step 7"). DESIGN
CHOICE (log 26): the two are parameters of the laws; the range after a device reset is always left open. -/
structure DeviceTraits where
  resetReads : Nat
  activeAfterReset : Option Bool
  deriving DecidableEq, Repr

/-- Nothing is known of the device. -/
def DeviceView.allUnknown : DeviceView := ⟨none, none, .unknown⟩

/-- A completed write. Outside a device reset: the reset bit starts one, and active bit and range are open from there on
(N7); bit 0 of `REG_CTRL1` is the active bit (R34); a range write is ignored while the device is active, takes effect in
standby (R43), and leaves the range open if the active bit is. While a reset runs, or may run, any write leaves everything
open (`93_implementation_defined.md` U5; DESIGN CHOICE, log 26). Outside one, a write of any other register, on whose effect
the source is silent (R33, U13), keeps active bit, range and phase: DESIGN CHOICE (log 26), unsafe. -/
def DeviceView.afterWrite (cfg : Config) (traits : DeviceTraits) (a v : Byte) (w : DeviceView) : DeviceView :=
  match w.phase with
  | .settled =>
    if a = cfg.regCtrl2 then
      if resetBitSet cfg v then ⟨none, none, .running traits.resetReads⟩ else w
    else if a = cfg.regCtrl1 then { w with active := some (ctrl1Active v) }
    else if a = cfg.regXyzDataCfg then
      match w.active with
      | some true => w
      | some false => { w with range := some (rangeField v) }
      | none => { w with range := none }
    else w
  | .running _ => .allUnknown
  | .unknown => .allUnknown

/-- A write that did not complete: it may have been received or not (R110, U9), so what it would change is open; as in
`afterWrite`, a write of any other register is taken to change none of the three (R33; DESIGN CHOICE, log 26). -/
def DeviceView.afterFailedWrite (cfg : Config) (a v : Byte) (w : DeviceView) : DeviceView :=
  match w.phase with
  | .settled =>
    if a = cfg.regCtrl2 then
      if resetBitSet cfg v then .allUnknown else w
    else if a = cfg.regCtrl1 then { w with active := none }
    else if a = cfg.regXyzDataCfg then { w with range := none }
    else w
  | .running _ => .allUnknown
  | .unknown => .allUnknown

/-- A completed read. The reset bit shows whether a reset runs (R35); outside one, `REG_CTRL1` shows the active bit (R34)
and `REG_XYZ_DATA_CFG` the range (R36). Whether a read changes the device is not in the source (R60,
`91_not_in_source.md` N10): that a read of any register keeps active bit, range and phase as they are, and only shows
them, is a DESIGN CHOICE (log 26), unsafe. -/
def DeviceView.afterRead (cfg : Config) (traits : DeviceTraits) (a v : Byte) (w : DeviceView) : DeviceView :=
  match w.phase with
  | .settled =>
    if a = cfg.regCtrl2 then
      if resetBitSet cfg v then .allUnknown else w
    else if a = cfg.regCtrl1 then { w with active := some (ctrl1Active v) }
    else if a = cfg.regXyzDataCfg then { w with range := some (rangeField v) }
    else w
  | .running readsLeft =>
    if a = cfg.regCtrl2 then
      if resetBitSet cfg v then { w with phase := .running (readsLeft - 1) }
      else ⟨traits.activeAfterReset, none, .settled⟩
    else w
  | .unknown => if a = cfg.regCtrl2 ∧ ¬ resetBitSet cfg v then ⟨none, none, .settled⟩ else w

/-- The view after one access. -/
def DeviceView.after (cfg : Config) (traits : DeviceTraits) (w : DeviceView) : RegAccess → DeviceView
  | .wrote a v => w.afterWrite cfg traits a v
  | .mayHaveWritten a v => w.afterFailedWrite cfg a v
  | .readAs a v => w.afterRead cfg traits a v

/-- Every access of a log is allowed at the view the accesses before it leave. -/
def DeviceView.lawful (cfg : Config) (traits : DeviceTraits) (allowed : RegAccess → DeviceView → Prop) :
    DeviceView → List RegAccess → Prop
  | _, [] => True
  | w, x :: rest => allowed x w ∧ DeviceView.lawful cfg traits allowed (w.after cfg traits x) rest

/-- Whether the reset bit may read as 1 (R35). -/
def ResetPhase.mayReadSet : ResetPhase → Bool
  | .settled => false
  | .running readsLeft => readsLeft != 0
  | .unknown => true

/-- R35 of one access: a read of `REG_CTRL2` shows the reset bit as 1 only while a reset runs, or may run. -/
def resetAllowed (cfg : Config) : RegAccess → DeviceView → Prop
  | .readAs a v, w => a = cfg.regCtrl2 → resetBitSet cfg v → w.phase.mayReadSet = true
  | .wrote _ _, _ => True
  | .mayHaveWritten _ _, _ => True

/-- R43 and R34 of one access, with the store premise of R62: a read of `REG_XYZ_DATA_CFG` gives the range the device
holds and a read of `REG_CTRL1` its active bit, where they are known. -/
def rangeAllowed (cfg : Config) : RegAccess → DeviceView → Prop
  | .readAs a v, w =>
    (a = cfg.regXyzDataCfg → ∀ r, w.range = some r → rangeField v = r) ∧
    (a = cfg.regCtrl1 → ∀ b, w.active = some b → ctrl1Active v = b)
  | .wrote _ _, _ => True
  | .mayHaveWritten _ _, _ => True

/-- R35, the law of the device's reset bit: "writing it 1 starts a device reset", the bit "reads 1 while the reset runs
and 0 afterwards", and a reset ends within `traits.resetReads` reads (R171). From the view `w`. -/
def resetLaw (cfg : Config) (traits : DeviceTraits) (w : DeviceView) (log : List RegAccess) : Prop :=
  w.lawful cfg traits (resetAllowed cfg) log

/-- R43, the law of range changes: "the device ignores range changes while active". From the view `w`. A device reset,
and a write that did not complete, leave open what they may have changed (log 26). -/
def rangeLaw (cfg : Config) (traits : DeviceTraits) (w : DeviceView) (log : List RegAccess) : Prop :=
  w.lawful cfg traits (rangeAllowed cfg) log

end Sys2Proof.Machine
end

