-- ==== Sys2Proof/Safety.lean ====
section
/-! DEFINITION. What the claims mean by a sound state and a sound run: the frame shape of the bus trace, the sample
law, the shape of responses, the invariant of the machine, and the named fairness premise of 70_reset_and_hazards.md
R232. -/

namespace Sys2Proof.Machine

/-- R115 (1), R88, R89: a write frame is one two-byte write without hold; a read frame is a one-byte write with hold,
directly followed by one read of 1 to 255 bytes from the same device if that write completed, and by nothing if it did
not. -/
def wellFramed : List BusEvent → Bool
  | [] => true
  | .write _ [_, _] false _ :: rest => wellFramed rest
  | .write dev [_] true (.ok _) :: .read dev' n _ :: rest =>
    decide (dev = dev') && decide (1 ≤ n) && decide (n ≤ 255) && wellFramed rest
  | .write _ [_] true .fail :: rest => wellFramed rest
  | .write _ [_] true .never :: rest => wellFramed rest
  | .write _ _ _ _ :: _ => false
  | .read _ _ _ :: _ => false

/-- The device address a primitive was directed at (R90). -/
def BusEvent.dev : BusEvent → DevAddr
  | .write dev _ _ _ => dev
  | .read dev _ _ => dev

/-- The answer a primitive got. -/
def BusEvent.reply : BusEvent → BusReply
  | .write _ _ _ reply => reply
  | .read _ _ reply => reply

/-- R23: while `SAMPLE_VALID = 1`, one range relates every PHYS register to its RAW register. -/
def Block.sampleLaw (b : Block) : Prop :=
  b.sampleValid = true → ∃ r : RangeSetting, ∀ a : Axis, b.phys a = sext16 (b.raw a) <<< r.shift

/-- The number of data bytes of an OK response (R86). -/
def dataLength : Instr → Nat
  | .wrreg _ _ => 0
  | .rdreg _ => 1
  | .rdblk _ count => count.toNat
  | .decode _ _ _ _ _ _ _ => 12
  | .acquire => 12

/-- R86: with status OK, the word is a command and the data has that command's length; with any other status it is
empty. -/
def Exchange.shaped (x : Exchange) : Prop :=
  match x.response.status with
  | .ok => ∃ i, decode x.command = .ok i ∧ x.response.data.length = dataLength i
  | .fault _ => x.response.data = []

/-- R84: the six cases of an illegal word, in the bits of the word. -/
def illegalWord (c : CommandWord) : Prop :=
  c.extractLsb' 56 8 ∉ ([0x01, 0x02, 0x03, 0x10, 0x11] : List Byte) ∨
  ((c.extractLsb' 56 8 = (0x01 : Byte) ∨ c.extractLsb' 56 8 = (0x03 : Byte)) ∧ c.extractLsb' 8 40 ≠ (0 : BitVec 40)) ∨
  (c.extractLsb' 56 8 = (0x02 : Byte) ∧ c.extractLsb' 0 48 ≠ (0 : BitVec 48)) ∨
  (c.extractLsb' 56 8 = (0x03 : Byte) ∧ c.extractLsb' 0 8 = (0 : Byte)) ∨
  (c.extractLsb' 56 8 = (0x10 : Byte) ∧ c.extractLsb' 50 6 ≠ (0 : BitVec 6)) ∨
  (c.extractLsb' 56 8 = (0x11 : Byte) ∧ c.extractLsb' 0 56 ≠ (0 : BitVec 56))

/-- `k` steps, stopping at the first fault or refusal (R233). -/
def stepN : Nat → State → Host.Outcome State Fault Refusal
  | 0, s => .next s
  | k + 1, s =>
    match step s with
    | .next t => stepN k t
    | .fault r => .fault r
    | .refused r => .refused r

/-- The six sample registers and the flag (R20): what a command with a fault leaves alone (R197). -/
def Block.sampleOf (b : Block) : Raw × Raw × Raw × Lane × Lane × Lane × Bool :=
  (b.rawX, b.rawY, b.rawZ, b.physX, b.physY, b.physZ, b.sampleValid)

/-- The host's resting point: idle block, nothing presented, no procedure in progress. -/
def State.hostFree (s : State) : Prop := s.block.seq = .idle ∧ s.port = none ∧ s.host.job = none

/-- The invariant of the machine. -/
structure Inv (s : State) : Prop where
  /-- R28, R54: no bus is held between commands. -/
  released : s.block.seq = .idle → s.block.busHeld = false
  /-- R23. -/
  sample : s.block.sampleLaw
  /-- R115. -/
  framed : wellFramed s.trace = true
  /-- R90. -/
  addressed : ∀ e ∈ s.trace, e.dev = s.config.devAddr
  /-- R86. -/
  shaped : ∀ x ∈ s.history, x.shaped
  /-- The fixture's store is canonical. -/
  store : s.device.wf = true

/-- The named fairness premise of R232: the primitives of one command return. A command issues at most four. -/
def State.busReturns (s : State) : Prop := ∀ j < 4, s.device.returnsAt j

/-- The block between commands (R113): idle, the bus released. -/
def Block.atRest (b : Block) : Prop := b.seq = .idle ∧ b.busHeld = false

end Sys2Proof.Machine
end

