-- ==== Sys2Proof/Certificates/Slice0/Obligations.lean ====
section
/-! DEFINITION. The statements for the provers, from the numbered rules of spec/. -/

open Sys2Proof Sys2Proof.Machine

/-! ## Encoding -/

/-- `95_test_vectors.md` E1, E4, E5, E7, E8, E9, E10: words written out from Table 30-1 decode to their commands. -/
def Obligations.SpecWordsDecodeToTheirCommands : Prop :=
  decode 0x012A000000000004 = .ok (.wrreg 0x2A 0x04) ∧
  decode 0x020E000000000000 = .ok (.rdreg 0x0E) ∧
  decode 0x0301000000000006 = .ok (.rdblk 0x01 0x06) ∧
  decode 0x03010000000000FF = .ok (.rdblk 0x01 0xFF) ∧
  decode 0x1001100020003000 = .ok (.decode 1 0x10 0x00 0x20 0x00 0x30 0x00) ∧
  decode 0x1003000000000000 = .ok (.decode 3 0 0 0 0 0 0) ∧
  decode 0x1100000000000000 = .ok .acquire

/-- R81, R83: the word of every well-formed command decodes to it, with every operand at every value. -/
def Obligations.DecodeOfEncodeIsTheCommand : Prop :=
  ∀ i : Instr, i.wellFormed = true → decode (encode i) = .ok i

/-- R80, R85: every word the decoder accepts is the word of the command it gives, and that command is well-formed. -/
def Obligations.EncodeOfDecodeIsTheWord : Prop :=
  ∀ (c : CommandWord) (i : Instr), decode c = .ok i → encode i = c ∧ i.wellFormed = true

/-- R85: "a word `C` selects a row when `C & mask = match`", RDBLK with its extra condition: the decoder gives a command
of a row exactly when the word selects the row. -/
def Obligations.DecoderAgreesWithTheOpcodeRows : Prop :=
  ∀ (c : CommandWord) (row : OpcodeRow), row ∈ opcodeRows →
    (row.selects c = true ↔ ∃ i, decode c = .ok i ∧ i.mnemonic = row.mnemonic)

/-- R84, R192: a word of one of the six illegal cases gives `IllegalCommand`, with no bus activity and no change of
state but the response; every other word is a command and is run; a DECODE word with `rng = 3` is one of those and
raises `RangeReserved`. -/
def Obligations.IllegalWordsRaiseIllegalCommand : Prop :=
  ∀ (s : State) (c : CommandWord), s.block.seq = .idle → s.port = some c →
    (illegalWord c →
      step s = .next { s with
        port := none
        history := s.history ++ [⟨c, ⟨.fault .illegalCommand, []⟩⟩] }) ∧
    (¬ illegalWord c →
      ∃ i, decode c = .ok i ∧ i.wellFormed = true ∧ step s = exec i { s with port := none }) ∧
    (c.extractLsb' 56 8 = (0x10 : Byte) → c.extractLsb' 50 6 = (0 : BitVec 6) → c.extractLsb' 48 2 = (3 : RangeCode) →
      ¬ illegalWord c ∧
      step s = .next { s with
        port := none
        history := s.history ++ [⟨c, ⟨.fault .rangeReserved, []⟩⟩] })

/-- R196: a DECODE word with a nonzero must-be-zero bit and range code 3 raises `IllegalCommand`, not `RangeReserved`. -/
def Obligations.IllegalCommandComesBeforeRangeReserved : Prop :=
  ∀ (s : State) (c : CommandWord), s.block.seq = .idle → s.port = some c →
    c.extractLsb' 56 8 = (0x10 : Byte) → c.extractLsb' 50 6 ≠ (0 : BitVec 6) → c.extractLsb' 48 2 = (3 : RangeCode) →
    step s = .next { s with
      port := none
      history := s.history ++ [⟨c, ⟨.fault .illegalCommand, []⟩⟩] }

/-! ## Steps -/

/-- R26, R80: an idle block with a word on its port that decodes to a command takes the word and runs the command. -/
def Obligations.StepRunsTheDecodedCommand : Prop :=
  ∀ (s : State) (c : CommandWord) (i : Instr), s.block.seq = .idle → s.port = some c → decode c = .ok i →
    step s = exec i { s with port := none }

/-- The model's choice of log 5, log 9 and log 12 over R26, R205 and R220: with nothing to do the machine keeps its
state; while a command is in progress nothing is accepted, and a reset then is refused. -/
def Obligations.IdleAndBusyStepsKeepTheState : Prop :=
  (∀ s : State, s.hostFree → s.inputs = [] → step s = .next s) ∧
  (∀ s : State, s.block.seq = .busy → s.inputs.head? ≠ some .reset → step s = .next s) ∧
  (∀ s : State, s.block.seq = .busy → s.inputs.head? = some .reset → step s = .refused .resetWhileBusy)

/-- No step faults, and the only refusal is a reset of a busy block (R197; U6, log 12). -/
def Obligations.NoStepFaultsAndOnlyABusyResetIsRefused : Prop :=
  ∀ s : State, (∀ f, step s ≠ .fault f) ∧
    ∀ r, step s = .refused r → r = .resetWhileBusy ∧ s.block.seq = .busy ∧ s.inputs.head? = some .reset

/-! ## Transport commands -/

/-- R110, whole. (1) WRREG, completed: one two-byte write without hold, `(OK, [])`, nothing else changes. (2) If the
write fails: `(TransportError, [])`. (3) The operands of a word with `OP = 0x01`, and `IllegalCommand` before any bus
activity if `C[47:8] != 0`. -/
def Obligations.WrregWritesOneRegister : Prop :=
  (∀ (addr value : Byte) (s : State) (d : Device), s.device.write [addr, value] false = (.ok [], d) →
    exec (.wrreg addr value) s = .next { s with
      block := { s.block with seq := .idle, busHeld := false }
      device := d
      trace := s.trace ++ [.write s.config.devAddr [addr, value] false (.ok [])]
      history := s.history ++ [⟨encode (.wrreg addr value), ⟨.ok, []⟩⟩] }) ∧
  (∀ (addr value : Byte) (s : State) (d : Device), s.device.write [addr, value] false = (.fail, d) →
    exec (.wrreg addr value) s = .next { s with
      block := { s.block with seq := .idle, busHeld := false }
      device := d
      trace := s.trace ++ [.write s.config.devAddr [addr, value] false .fail]
      history := s.history ++ [⟨encode (.wrreg addr value), ⟨.fault .transportError, []⟩⟩] }) ∧
  (∀ (s : State) (c : CommandWord), s.block.seq = .idle → s.port = some c → c.extractLsb' 56 8 = (0x01 : Byte) →
    (c.extractLsb' 8 40 = (0 : BitVec 40) →
      step s = exec (.wrreg (c.extractLsb' 48 8) (c.extractLsb' 0 8)) { s with port := none }) ∧
    (c.extractLsb' 8 40 ≠ (0 : BitVec 40) →
      step s = .next { s with
        port := none
        history := s.history ++ [⟨c, ⟨.fault .illegalCommand, []⟩⟩] }))

/-- R111, whole. (1) RDREG, completed: the address with the bus held, then a read of one byte, `(OK, [d[0]])`, the byte
whole; nothing else changes. (2) If the write fails no read is issued, and `(TransportError, [])`. (3) If the read
fails, `(TransportError, [])`. (4) The operand of a word with `OP = 0x02`, and `IllegalCommand` before any bus activity
if `C[47:0] != 0`. -/
def Obligations.RdregReadsOneByte : Prop :=
  (∀ (addr value : Byte) (s : State) (d₁ d₂ : Device),
    s.device.write [addr] true = (.ok [], d₁) → d₁.read 1 = (.ok [value], d₂) →
    exec (.rdreg addr) s = .next { s with
      block := { s.block with seq := .idle, busHeld := false }
      device := d₂
      trace := s.trace ++ [.write s.config.devAddr [addr] true (.ok []), .read s.config.devAddr 1 (.ok [value])]
      history := s.history ++ [⟨encode (.rdreg addr), ⟨.ok, [value]⟩⟩] }) ∧
  (∀ (addr : Byte) (s : State) (d : Device), s.device.write [addr] true = (.fail, d) →
    exec (.rdreg addr) s = .next { s with
      block := { s.block with seq := .idle, busHeld := false }
      device := d
      trace := s.trace ++ [.write s.config.devAddr [addr] true .fail]
      history := s.history ++ [⟨encode (.rdreg addr), ⟨.fault .transportError, []⟩⟩] }) ∧
  (∀ (addr : Byte) (s : State) (d₁ d₂ : Device),
    s.device.write [addr] true = (.ok [], d₁) → d₁.read 1 = (.fail, d₂) →
    exec (.rdreg addr) s = .next { s with
      block := { s.block with seq := .idle, busHeld := false }
      device := d₂
      trace := s.trace ++ [.write s.config.devAddr [addr] true (.ok []), .read s.config.devAddr 1 .fail]
      history := s.history ++ [⟨encode (.rdreg addr), ⟨.fault .transportError, []⟩⟩] }) ∧
  (∀ (s : State) (c : CommandWord), s.block.seq = .idle → s.port = some c → c.extractLsb' 56 8 = (0x02 : Byte) →
    (c.extractLsb' 0 48 = (0 : BitVec 48) → step s = exec (.rdreg (c.extractLsb' 48 8)) { s with port := none }) ∧
    (c.extractLsb' 0 48 ≠ (0 : BitVec 48) →
      step s = .next { s with
        port := none
        history := s.history ++ [⟨c, ⟨.fault .illegalCommand, []⟩⟩] }))

/-- R112, whole. (1) RDBLK with a count `n` of 1 to 255, completed: one address write with the bus held, one read of `n`
bytes, all of them returned in order; nothing else changes, and with `n = 1` it is as RDREG. (2), (3) If the write or
the read fails, `(TransportError, [])`. (4) The operands of a word with `OP = 0x03`, and `IllegalCommand` before any bus
activity if `C[47:8] != 0` or `n = 0`. -/
def Obligations.RdblkReadsABurst : Prop :=
  (∀ (addr count : Byte) (bytes : List Byte) (s : State) (d₁ d₂ : Device), count ≠ 0 →
    s.device.write [addr] true = (.ok [], d₁) → d₁.read count.toNat = (.ok bytes, d₂) →
    bytes.length = count.toNat ∧
    exec (.rdblk addr count) s = .next { s with
      block := { s.block with seq := .idle, busHeld := false }
      device := d₂
      trace := s.trace ++
        [.write s.config.devAddr [addr] true (.ok []), .read s.config.devAddr count.toNat (.ok bytes)]
      history := s.history ++ [⟨encode (.rdblk addr count), ⟨.ok, bytes⟩⟩] }) ∧
  (∀ (addr count : Byte) (s : State) (d : Device), count ≠ 0 → s.device.write [addr] true = (.fail, d) →
    exec (.rdblk addr count) s = .next { s with
      block := { s.block with seq := .idle, busHeld := false }
      device := d
      trace := s.trace ++ [.write s.config.devAddr [addr] true .fail]
      history := s.history ++ [⟨encode (.rdblk addr count), ⟨.fault .transportError, []⟩⟩] }) ∧
  (∀ (addr count : Byte) (s : State) (d₁ d₂ : Device), count ≠ 0 →
    s.device.write [addr] true = (.ok [], d₁) → d₁.read count.toNat = (.fail, d₂) →
    exec (.rdblk addr count) s = .next { s with
      block := { s.block with seq := .idle, busHeld := false }
      device := d₂
      trace := s.trace ++ [.write s.config.devAddr [addr] true (.ok []), .read s.config.devAddr count.toNat .fail]
      history := s.history ++ [⟨encode (.rdblk addr count), ⟨.fault .transportError, []⟩⟩] }) ∧
  (∀ (s : State) (c : CommandWord), s.block.seq = .idle → s.port = some c → c.extractLsb' 56 8 = (0x03 : Byte) →
    (c.extractLsb' 8 40 = (0 : BitVec 40) → c.extractLsb' 0 8 ≠ (0 : Byte) →
      step s = exec (.rdblk (c.extractLsb' 48 8) (c.extractLsb' 0 8)) { s with port := none }) ∧
    (c.extractLsb' 8 40 ≠ (0 : BitVec 40) ∨ c.extractLsb' 0 8 = (0 : Byte) →
      step s = .next { s with
        port := none
        history := s.history ++ [⟨c, ⟨.fault .illegalCommand, []⟩⟩] })) ∧
  (∀ (addr : Byte) (s t u : State), exec (.rdblk addr 1) s = .next t → exec (.rdreg addr) s = .next u →
    t.trace = u.trace ∧ t.block = u.block ∧ t.device = u.device ∧
    (t.history.drop s.history.length).map (·.response) = (u.history.drop s.history.length).map (·.response))

/-- The model's choice of log 15, after R84 (d): run directly, the ill-formed RDBLK of no bytes answers as its word does,
`IllegalCommand` before any bus activity. -/
def Obligations.RdblkCountZeroIsIllegal : Prop :=
  ∀ (addr : Byte) (s : State),
    exec (.rdblk addr 0) s = .next { s with
      block := { s.block with seq := .idle }
      history := s.history ++ [⟨encode (.rdblk addr 0), ⟨.fault .illegalCommand, []⟩⟩] }

/-- R113: a transport command leaves the sample registers and the flag whatever its outcome, and, when it has ended,
all of the block is what it was before it; it changes nothing but the device, the trace and the responses. -/
def Obligations.TransportCommandsKeepTheBlock : Prop :=
  ∀ (i : Instr) (s t : State), (∀ rng b0 b1 b2 b3 b4 b5, i ≠ .decode rng b0 b1 b2 b3 b4 b5) → i ≠ .acquire →
    exec i s = .next t →
    t.block.sampleOf = s.block.sampleOf ∧
    (t.block.seq = .idle → s.block.atRest → t.block = s.block) ∧
    t = { s with block := t.block, device := t.device, trace := t.trace, history := t.history }

/-- R115: what a transport command adds to the bus trace is one write frame, or one read frame of its own count, never
more than one `BusWrite`, and no `BusRead` without it. The last clause, on the ill-formed term RDBLK with count 0, is the
model's choice of log 15. -/
def Obligations.OneTransactionPerTransportCommand : Prop :=
  (∀ (addr value : Byte) (s t : State), exec (.wrreg addr value) s = .next t →
    ∃ reply : BusReply, t.trace = s.trace ++ [.write s.config.devAddr [addr, value] false reply]) ∧
  (∀ (i : Instr) (addr count : Byte) (n : Nat) (s t : State),
    ((i = .rdreg addr ∧ n = 1) ∨ (i = .rdblk addr count ∧ count ≠ 0 ∧ n = count.toNat)) → exec i s = .next t →
    (∃ reply : BusReply, (∀ bytes, reply ≠ .ok bytes) ∧ t.trace = s.trace ++ [.write s.config.devAddr [addr] true reply]) ∨
    (∃ reply : BusReply, t.trace = s.trace ++
      [.write s.config.devAddr [addr] true (.ok []), .read s.config.devAddr n reply])) ∧
  (∀ (addr : Byte) (s t : State), exec (.rdblk addr 0) s = .next t → t.trace = s.trace)

/-- The model's choice of log 5 over R114 and R232: a primitive that never returns leaves its command in progress,
`SEQ = BUSY`, without a response and with no later primitive. (1) The write of WRREG. (2) The address write of RDREG,
RDBLK and ACQUIRE: the bus as it was. (3) Their read: the bus held (R28). (4), (5) The second address write of ACQUIRE,
the bus released by its first read, and its second read, the bus held. -/
def Obligations.APrimitiveThatNeverReturnsLeavesTheBlockBusy : Prop :=
  (∀ (addr value : Byte) (s : State) (d : Device), s.device.write [addr, value] false = (.never, d) →
    exec (.wrreg addr value) s = .next { s with
      block := { s.block with seq := .busy }
      device := d
      trace := s.trace ++ [.write s.config.devAddr [addr, value] false .never] }) ∧
  (∀ (i : Instr) (addr count : Byte) (n : Nat) (s : State),
    ((i = .rdreg addr ∧ n = 1) ∨ (i = .rdblk addr count ∧ count ≠ 0 ∧ n = count.toNat) ∨
      (i = .acquire ∧ addr = s.config.regOutXMsb ∧ n = 6)) →
    (∀ d₁ : Device, s.device.write [addr] true = (.never, d₁) →
      exec i s = .next { s with
        block := { s.block with seq := .busy }
        device := d₁
        trace := s.trace ++ [.write s.config.devAddr [addr] true .never] }) ∧
    (∀ d₁ d₂ : Device, s.device.write [addr] true = (.ok [], d₁) → d₁.read n = (.never, d₂) →
      exec i s = .next { s with
        block := { s.block with seq := .busy, busHeld := true }
        device := d₂
        trace := s.trace ++ [.write s.config.devAddr [addr] true (.ok []), .read s.config.devAddr n .never] })) ∧
  (∀ (s : State) (d₁ d₂ d₃ : Device) (burst : List Byte),
    s.device.write [s.config.regOutXMsb] true = (.ok [], d₁) → d₁.read 6 = (.ok burst, d₂) →
    (d₂.write [s.config.regXyzDataCfg] true = (.never, d₃) →
      exec .acquire s = .next { s with
        block := { s.block with seq := .busy, busHeld := false }
        device := d₃
        trace := s.trace ++
          [.write s.config.devAddr [s.config.regOutXMsb] true (.ok []), .read s.config.devAddr 6 (.ok burst),
           .write s.config.devAddr [s.config.regXyzDataCfg] true .never] }) ∧
    (∀ d₄ : Device, d₂.write [s.config.regXyzDataCfg] true = (.ok [], d₃) → d₃.read 1 = (.never, d₄) →
      exec .acquire s = .next { s with
        block := { s.block with seq := .busy, busHeld := true }
        device := d₄
        trace := s.trace ++
          [.write s.config.devAddr [s.config.regOutXMsb] true (.ok []), .read s.config.devAddr 6 (.ok burst),
           .write s.config.devAddr [s.config.regXyzDataCfg] true (.ok []), .read s.config.devAddr 1 .never] }))

/-! ## The pipeline -/

/-- R130, whole: the 14-bit result is `w[15:2]`, that is `asr_16(w, 2)[13:0]`; its sign extension is `asr_16(w, 2)`; its
value is `floor(signed_16(w) / 4)`, in -8192..8191; `w[1:0]` never affects it; and every 14-bit pattern is the image of
exactly the four words that agree in bits 15:2. -/
def Obligations.UnpackIsTheArithmeticShift : Prop :=
  (∀ hi lo : Byte,
    unpack14bSigned hi lo = (hi ++ lo : Lane).extractLsb' 2 14 ∧
    unpack14bSigned hi lo = ((hi ++ lo : Lane).sshiftRight 2).extractLsb' 0 14 ∧
    sext16 (unpack14bSigned hi lo) = (hi ++ lo : Lane).sshiftRight 2 ∧
    (unpack14bSigned hi lo).toInt = ⌊((hi ++ lo : Lane).toInt : ℚ) / 4⌋ ∧
    -8192 ≤ (unpack14bSigned hi lo).toInt ∧ (unpack14bSigned hi lo).toInt ≤ 8191) ∧
  (∀ hi lo lo' : Byte, lo.extractLsb' 2 6 = lo'.extractLsb' 2 6 → unpack14bSigned hi lo = unpack14bSigned hi lo') ∧
  (∀ (raw : Raw) (low : BitVec 2),
    unpack14bSigned (raw.extractLsb' 6 8) (raw.extractLsb' 0 6 ++ low : Byte) = raw) ∧
  (∀ (raw : Raw) (hi lo : Byte), unpack14bSigned hi lo = raw →
    hi = raw.extractLsb' 6 8 ∧ lo = (raw.extractLsb' 0 6 ++ lo.extractLsb' 0 2 : Byte))

/-- R132: the range table. The assignment of the codes 0, 1, 2 to the ranges is the spec's decision D4, from general
knowledge (log 18). -/
def Obligations.RangeTable : Prop :=
  RangeSetting.ofCode 0 = some .g2 ∧ RangeSetting.ofCode 1 = some .g4 ∧ RangeSetting.ofCode 2 = some .g8 ∧
  RangeSetting.ofCode 3 = none ∧
  RangeSetting.divisor .g2 = 4096 ∧ RangeSetting.divisor .g4 = 2048 ∧ RangeSetting.divisor .g8 = 1024 ∧
  (∀ r : RangeSetting, r.divisor * 2 ^ r.shift = 4096) ∧ (∀ r : RangeSetting, RangeSetting.ofCode r.code = some r) ∧
  ∀ r : RangeSetting, gValue (applyScaleFactor 0x2000 r) = -8192 / r.divisor ∧
    gValue (applyScaleFactor 0x1FFF r) = 8191 / r.divisor ∧ gValue (applyScaleFactor 0x0001 r) = 1 / r.divisor

/-- R133, whole: the S3.12 result for a range code 0, 1 or 2, and the real number it stands for, exactly
`signed_14(raw) / divisor(rng)` g; the three axes of a sample always use the same code. -/
def Obligations.ScalingIsExactDivision : Prop :=
  (∀ (raw : Raw) (rng : RangeCode) (r : RangeSetting), RangeSetting.ofCode rng = some r →
    applyScaleFactor raw r = sext16 raw <<< (if rng = 0 then 0 else if rng = 1 then 1 else 2) ∧
    gValue (applyScaleFactor raw r) = (raw.toInt : ℚ) / r.divisor) ∧
  (∀ rng : RangeCode, RangeSetting.ofCode rng = none ↔ rng = 3) ∧
  ∀ (b : Block) (burst : Burst) (r : RangeSetting) (a : Axis),
    (b.storeSample burst r).phys a = applyScaleFactor ((b.storeSample burst r).raw a) r

/-- R134, (1) to (6): the laws of the pipeline, for every axis word `hi ++ lo` and every range. (1) The unpack
truncates toward minus infinity by at most 3/4 of a raw step. (2) The shift loses no bit and the result stays inside the
16-bit span. (3) The division is exact. (4) The low `s` bits are zero. (5) The divisor is positive and the sign is that
of `raw`. (6) At range 2 the result is the bus word with its two low bits cleared. -/
def Obligations.ArithmeticLawsOfThePipeline : Prop :=
  ∀ (hi lo : Byte) (r : RangeSetting) (raw : Raw) (phys : Lane), raw = unpack14bSigned hi lo →
    phys = applyScaleFactor raw r →
    (raw.toInt = ⌊((hi ++ lo : Lane).toInt : ℚ) / 4⌋ ∧ 4 * raw.toInt ≤ (hi ++ lo : Lane).toInt ∧
      (hi ++ lo : Lane).toInt ≤ 4 * raw.toInt + 3) ∧
    (phys.toInt = raw.toInt * 2 ^ r.shift ∧ -32768 ≤ phys.toInt ∧ phys.toInt ≤ 32764) ∧
    (phys.toInt : ℚ) / 4096 = (raw.toInt : ℚ) / r.divisor ∧
    (∀ k < r.shift, phys.getLsbD k = false) ∧
    (0 < r.divisor ∧ (phys.toInt < 0 ↔ raw.toInt < 0) ∧ (phys.toInt = 0 ↔ raw.toInt = 0)) ∧
    (r.code = 2 → phys = (hi ++ lo : Lane) &&& 0xFFFC)

/-- R135, whole: X in bits 47:32, Y in bits 31:16, Z in bits 15:0; the two uses of it; and `RAW_PACKED` of a sample, read
as six bytes, is its burst with every axis word shifted right arithmetically by 2. -/
def Obligations.PackedLanesKeepBusOrder : Prop :=
  (∀ x y z : Lane,
    packXyz x y z = (x ++ y ++ z : Packed) ∧
    (packXyz x y z).extractLsb' 32 16 = x ∧ (packXyz x y z).extractLsb' 16 16 = y ∧
    (packXyz x y z).extractLsb' 0 16 = z) ∧
  (∀ b : Block, b.rawPacked = packXyz (b.rawX.signExtend 16) (b.rawY.signExtend 16) (b.rawZ.signExtend 16) ∧
    b.physPacked = packXyz b.physX b.physY b.physZ) ∧
  ∀ (b : Block) (b0 b1 b2 b3 b4 b5 : Byte) (r : RangeSetting) (x y z : Lane),
    x = (b0 ++ b1 : Lane).sshiftRight 2 → y = (b2 ++ b3 : Lane).sshiftRight 2 → z = (b4 ++ b5 : Lane).sshiftRight 2 →
    packedBytes (b.storeSample ⟨b0, b1, b2, b3, b4, b5⟩ r).rawPacked =
      [x.extractLsb' 8 8, x.extractLsb' 0 8, y.extractLsb' 8 8, y.extractLsb' 0 8, z.extractLsb' 8 8, z.extractLsb' 0 8]

/-- R24, R25: the sample ports show the registers while `SAMPLE_VALID = 1`; while it is 0 a read of them is a fault of
the claim. -/
def Obligations.SamplePortsShowTheRegisters : Prop :=
  ∀ b : Block,
    (b.sampleValid = true →
      b.readRawPacked = .ok (packXyz (b.rawX.signExtend 16) (b.rawY.signExtend 16) (b.rawZ.signExtend 16)) ∧
      b.readPhysPacked = .ok (packXyz b.physX b.physY b.physZ)) ∧
    (b.sampleValid = false →
      b.readRawPacked = .error .unwrittenSample ∧ b.readPhysPacked = .error .unwrittenSample)

/-! ## DECODE and ACQUIRE -/

/-- R137, whole. (1) DECODE with range code 0, 1 or 2 writes the six registers and sets the flag in one step, does
nothing on the bus, and responds with the 12 bytes; nothing else changes. (2) With range code 3 it raises
`RangeReserved`; no register and no flag changes. (3) The operands of a word with `OP = 0x10`, and `IllegalCommand` if
`C[55:50] != 0`. (4) The six discarded bits do not affect the result. (5) The same operands twice give the same state
and the same response. -/
def Obligations.DecodeStoresTheSample : Prop :=
  (∀ (rng : RangeCode) (r : RangeSetting) (b0 b1 b2 b3 b4 b5 : Byte) (s : State), RangeSetting.ofCode rng = some r →
    exec (.decode rng b0 b1 b2 b3 b4 b5) s = .next { s with
      block :=
        { rawX := unpack14bSigned b0 b1
          rawY := unpack14bSigned b2 b3
          rawZ := unpack14bSigned b4 b5
          physX := applyScaleFactor (unpack14bSigned b0 b1) r
          physY := applyScaleFactor (unpack14bSigned b2 b3) r
          physZ := applyScaleFactor (unpack14bSigned b4 b5) r
          sampleValid := true
          seq := .idle
          busHeld := s.block.busHeld }
      history := s.history ++ [⟨encode (.decode rng b0 b1 b2 b3 b4 b5), ⟨.ok,
        packedBytes (packXyz (sext16 (unpack14bSigned b0 b1)) (sext16 (unpack14bSigned b2 b3))
          (sext16 (unpack14bSigned b4 b5))) ++
        packedBytes (packXyz (applyScaleFactor (unpack14bSigned b0 b1) r)
          (applyScaleFactor (unpack14bSigned b2 b3) r) (applyScaleFactor (unpack14bSigned b4 b5) r))⟩⟩] }) ∧
  (∀ (b0 b1 b2 b3 b4 b5 : Byte) (s : State),
    exec (.decode 3 b0 b1 b2 b3 b4 b5) s = .next { s with
      block := { s.block with seq := .idle }
      history := s.history ++ [⟨encode (.decode 3 b0 b1 b2 b3 b4 b5), ⟨.fault .rangeReserved, []⟩⟩] }) ∧
  (∀ (s : State) (c : CommandWord), s.block.seq = .idle → s.port = some c → c.extractLsb' 56 8 = (0x10 : Byte) →
    (c.extractLsb' 50 6 = (0 : BitVec 6) →
      step s = exec (.decode (c.extractLsb' 48 2) (c.extractLsb' 40 8) (c.extractLsb' 32 8) (c.extractLsb' 24 8)
        (c.extractLsb' 16 8) (c.extractLsb' 8 8) (c.extractLsb' 0 8)) { s with port := none }) ∧
    (c.extractLsb' 50 6 ≠ (0 : BitVec 6) →
      step s = .next { s with
        port := none
        history := s.history ++ [⟨c, ⟨.fault .illegalCommand, []⟩⟩] })) ∧
  (∀ (rng : RangeCode) (b0 b1 b2 b3 b4 b5 c1 c3 c5 : Byte) (s t u : State),
    b1.extractLsb' 2 6 = c1.extractLsb' 2 6 → b3.extractLsb' 2 6 = c3.extractLsb' 2 6 →
    b5.extractLsb' 2 6 = c5.extractLsb' 2 6 →
    exec (.decode rng b0 b1 b2 b3 b4 b5) s = .next t → exec (.decode rng b0 c1 b2 c3 b4 c5) s = .next u →
    t.block = u.block ∧ t.lastResponse = u.lastResponse) ∧
  (∀ (rng : RangeCode) (b0 b1 b2 b3 b4 b5 : Byte) (s t u : State),
    exec (.decode rng b0 b1 b2 b3 b4 b5) s = .next t → exec (.decode rng b0 b1 b2 b3 b4 b5) t = .next u →
    u.block = t.block ∧ u.lastResponse = t.lastResponse)

/-- R138, whole. (1) ACQUIRE whose four primitives complete and whose range field reads 0, 1 or 2: the trace of four
primitives, the sample decoded from the one burst and scaled by the range read after it, the flag, the 12 bytes; nothing
else changes. (2) If the range field reads 3, `RangeReserved` after both transactions; the sample stays. (3) If its
first, second, third or fourth primitive fails, `(TransportError, [])`, no later primitive, the bus released, the
sample as it was. (4) The word is `OP = 0x11` with `C[55:0] = 0`, else `IllegalCommand` and no bus activity. -/
def Obligations.AcquireStoresTheSample : Prop :=
  (∀ (s : State) (d₁ d₂ d₃ d₄ : Device) (b0 b1 b2 b3 b4 b5 c : Byte) (r : RangeSetting),
    s.device.write [s.config.regOutXMsb] true = (.ok [], d₁) → d₁.read 6 = (.ok [b0, b1, b2, b3, b4, b5], d₂) →
    d₂.write [s.config.regXyzDataCfg] true = (.ok [], d₃) → d₃.read 1 = (.ok [c], d₄) →
    RangeSetting.ofCode (c.extractLsb' 0 2) = some r →
    exec .acquire s = .next { s with
      block :=
        { rawX := unpack14bSigned b0 b1
          rawY := unpack14bSigned b2 b3
          rawZ := unpack14bSigned b4 b5
          physX := applyScaleFactor (unpack14bSigned b0 b1) r
          physY := applyScaleFactor (unpack14bSigned b2 b3) r
          physZ := applyScaleFactor (unpack14bSigned b4 b5) r
          sampleValid := true
          seq := .idle
          busHeld := false }
      device := d₄
      trace := s.trace ++
        [.write s.config.devAddr [s.config.regOutXMsb] true (.ok []),
         .read s.config.devAddr 6 (.ok [b0, b1, b2, b3, b4, b5]),
         .write s.config.devAddr [s.config.regXyzDataCfg] true (.ok []),
         .read s.config.devAddr 1 (.ok [c])]
      history := s.history ++ [⟨encode .acquire, ⟨.ok,
        packedBytes (packXyz (sext16 (unpack14bSigned b0 b1)) (sext16 (unpack14bSigned b2 b3))
          (sext16 (unpack14bSigned b4 b5))) ++
        packedBytes (packXyz (applyScaleFactor (unpack14bSigned b0 b1) r)
          (applyScaleFactor (unpack14bSigned b2 b3) r) (applyScaleFactor (unpack14bSigned b4 b5) r))⟩⟩] }) ∧
  (∀ (s : State) (d₁ d₂ d₃ d₄ : Device) (burst : List Byte) (c : Byte),
    s.device.write [s.config.regOutXMsb] true = (.ok [], d₁) → d₁.read 6 = (.ok burst, d₂) →
    d₂.write [s.config.regXyzDataCfg] true = (.ok [], d₃) → d₃.read 1 = (.ok [c], d₄) → c.extractLsb' 0 2 = (3 : RangeCode) →
    exec .acquire s = .next { s with
      block := { s.block with seq := .idle, busHeld := false }
      device := d₄
      trace := s.trace ++
        [.write s.config.devAddr [s.config.regOutXMsb] true (.ok []), .read s.config.devAddr 6 (.ok burst),
         .write s.config.devAddr [s.config.regXyzDataCfg] true (.ok []), .read s.config.devAddr 1 (.ok [c])]
      history := s.history ++ [⟨encode .acquire, ⟨.fault .rangeReserved, []⟩⟩] }) ∧
  (∀ (s : State) (d₁ d₂ d₃ d₄ : Device) (burst : List Byte) (w₁ r₁ w₂ r₂ : BusEvent),
    w₁ = .write s.config.devAddr [s.config.regOutXMsb] true (.ok []) → r₁ = .read s.config.devAddr 6 (.ok burst) →
    w₂ = .write s.config.devAddr [s.config.regXyzDataCfg] true (.ok []) → r₂ = .read s.config.devAddr 1 .fail →
    (s.device.write [s.config.regOutXMsb] true = (.fail, d₁) →
      exec .acquire s = .next { s with
        block := { s.block with seq := .idle, busHeld := false }
        device := d₁
        trace := s.trace ++ [.write s.config.devAddr [s.config.regOutXMsb] true .fail]
        history := s.history ++ [⟨encode .acquire, ⟨.fault .transportError, []⟩⟩] }) ∧
    (s.device.write [s.config.regOutXMsb] true = (.ok [], d₁) → d₁.read 6 = (.fail, d₂) →
      exec .acquire s = .next { s with
        block := { s.block with seq := .idle, busHeld := false }
        device := d₂
        trace := s.trace ++ [w₁, .read s.config.devAddr 6 .fail]
        history := s.history ++ [⟨encode .acquire, ⟨.fault .transportError, []⟩⟩] }) ∧
    (s.device.write [s.config.regOutXMsb] true = (.ok [], d₁) → d₁.read 6 = (.ok burst, d₂) →
      d₂.write [s.config.regXyzDataCfg] true = (.fail, d₃) →
      exec .acquire s = .next { s with
        block := { s.block with seq := .idle, busHeld := false }
        device := d₃
        trace := s.trace ++ [w₁, r₁, .write s.config.devAddr [s.config.regXyzDataCfg] true .fail]
        history := s.history ++ [⟨encode .acquire, ⟨.fault .transportError, []⟩⟩] }) ∧
    (s.device.write [s.config.regOutXMsb] true = (.ok [], d₁) → d₁.read 6 = (.ok burst, d₂) →
      d₂.write [s.config.regXyzDataCfg] true = (.ok [], d₃) → d₃.read 1 = (.fail, d₄) →
      exec .acquire s = .next { s with
        block := { s.block with seq := .idle, busHeld := false }
        device := d₄
        trace := s.trace ++ [w₁, r₁, w₂, r₂]
        history := s.history ++ [⟨encode .acquire, ⟨.fault .transportError, []⟩⟩] })) ∧
  (∀ (s : State) (c : CommandWord), s.block.seq = .idle → s.port = some c → c.extractLsb' 56 8 = (0x11 : Byte) →
    (c.extractLsb' 0 56 = (0 : BitVec 56) → step s = exec .acquire { s with port := none }) ∧
    (c.extractLsb' 0 56 ≠ (0 : BitVec 56) →
      step s = .next { s with
        port := none
        history := s.history ++ [⟨c, ⟨.fault .illegalCommand, []⟩⟩] }))

/-- R140: DECODE and ACQUIRE write the six registers and the flag in one step, and only when they end with status OK;
with any fault, or while they have not ended, the seven keep their values. -/
def Obligations.SampleUpdateIsAllOrNothing : Prop :=
  ∀ (i : Instr) (s t : State), ((∃ rng b0 b1 b2 b3 b4 b5, i = .decode rng b0 b1 b2 b3 b4 b5) ∨ i = .acquire) →
    exec i s = .next t →
    ((∃ data, t.history = s.history ++ [⟨encode i, ⟨.ok, data⟩⟩]) ∧ t.block.sampleValid = true ∧
      ∃ burst r, t.block.sampleOf = (s.block.storeSample burst r).sampleOf) ∨
    ((∀ data, t.history ≠ s.history ++ [⟨encode i, ⟨.ok, data⟩⟩]) ∧ t.block.sampleOf = s.block.sampleOf)

/-- R87, whole: the 12 data bytes of a DECODE or ACQUIRE that ends with OK are the new registers, `RAW_PACKED` then
`PHYS_PACKED`, X first, most significant byte first, raw values sign-extended to 16 bits. -/
def Obligations.SampleResponseCarriesTheNewRegisters : Prop :=
  ∀ (i : Instr) (s t : State) (data : List Byte),
    ((∃ rng b0 b1 b2 b3 b4 b5, i = .decode rng b0 b1 b2 b3 b4 b5) ∨ i = .acquire) → exec i s = .next t →
    t.history = s.history ++ [⟨encode i, ⟨.ok, data⟩⟩] →
    data = packedBytes t.block.rawPacked ++ packedBytes t.block.physPacked ∧
    data =
      [(t.block.rawX.signExtend 16).extractLsb' 8 8, (t.block.rawX.signExtend 16).extractLsb' 0 8,
       (t.block.rawY.signExtend 16).extractLsb' 8 8, (t.block.rawY.signExtend 16).extractLsb' 0 8,
       (t.block.rawZ.signExtend 16).extractLsb' 8 8, (t.block.rawZ.signExtend 16).extractLsb' 0 8,
       t.block.physX.extractLsb' 8 8, t.block.physX.extractLsb' 0 8,
       t.block.physY.extractLsb' 8 8, t.block.physY.extractLsb' 0 8,
       t.block.physZ.extractLsb' 8 8, t.block.physZ.extractLsb' 0 8]

/-- R141: ACQUIRE is equivalent, in state change and in bus trace, to `RDBLK REG_OUT_X_MSB, 6 -> b`,
`RDREG REG_XYZ_DATA_CFG -> c`, `DECODE c[1:0], b`, with one response instead of three; and where the first or the second
of them ends with a fault, or never ends (log 5), to what was run up to it. -/
def Obligations.AcquireIsBurstThenRangeThenDecode : Prop :=
  ∀ (s s₁ s₂ s₃ t : State) (b0 b1 b2 b3 b4 b5 c : Byte),
    exec (.rdblk s.config.regOutXMsb 6) s = .next s₁ → exec (.rdreg s.config.regXyzDataCfg) s₁ = .next s₂ →
    exec (.decode (c.extractLsb' 0 2) b0 b1 b2 b3 b4 b5) s₂ = .next s₃ → exec .acquire s = .next t →
    (s₁.history = s.history ++ [⟨encode (.rdblk s.config.regOutXMsb 6), ⟨.ok, [b0, b1, b2, b3, b4, b5]⟩⟩] →
      s₂.history = s₁.history ++ [⟨encode (.rdreg s.config.regXyzDataCfg), ⟨.ok, [c]⟩⟩] →
      t.block = s₃.block ∧ t.trace = s₃.trace ∧ t.device = s₃.device ∧
      ∃ x, s₃.lastResponse = some x ∧ t.history = s.history ++ [⟨encode .acquire, x⟩]) ∧
    (∀ f, s₁.history = s.history ++ [⟨encode (.rdblk s.config.regOutXMsb 6), ⟨.fault f, []⟩⟩] →
      t.block = s₁.block ∧ t.trace = s₁.trace ∧ t.device = s₁.device ∧
      t.history = s.history ++ [⟨encode .acquire, ⟨.fault f, []⟩⟩]) ∧
    (∀ f, s₁.history = s.history ++ [⟨encode (.rdblk s.config.regOutXMsb 6), ⟨.ok, [b0, b1, b2, b3, b4, b5]⟩⟩] →
      s₂.history = s₁.history ++ [⟨encode (.rdreg s.config.regXyzDataCfg), ⟨.fault f, []⟩⟩] →
      t.block = s₂.block ∧ t.trace = s₂.trace ∧ t.device = s₂.device ∧
      t.history = s.history ++ [⟨encode .acquire, ⟨.fault f, []⟩⟩]) ∧
    (s₁.block.seq = .busy →
      t.block = s₁.block ∧ t.trace = s₁.trace ∧ t.device = s₁.device ∧ t.history = s.history) ∧
    (s₁.history = s.history ++ [⟨encode (.rdblk s.config.regOutXMsb 6), ⟨.ok, [b0, b1, b2, b3, b4, b5]⟩⟩] →
      s₂.block.seq = .busy →
      t.block = s₂.block ∧ t.trace = s₂.trace ∧ t.device = s₂.device ∧ t.history = s.history)

/-! ## Faults, responses, sequencer -/

/-- R197, of a command run by exec and of a word taken by a step. A command whose response carries a fault has issued no
primitive after the one that failed (none at all for `IllegalCommand`; for `RangeReserved` all that it issued completed);
the bus is released; the six registers and the flag are as they were; the response carries no data; `SEQ = IDLE`; and
nothing else is written but the device, the trace and the response. Run by exec, `IllegalCommand` is the answer to the
ill-formed term RDBLK with count 0 alone, the model's choice of log 15; the illegal words of R84 are in the second
clause. -/
def Obligations.AFaultChangesNoStateOfTheBlock : Prop :=
  (∀ (i : Instr) (s t : State) (f : CommandFault) (data : List Byte), exec i s = .next t →
    t.history = s.history ++ [⟨encode i, ⟨.fault f, data⟩⟩] →
    data = [] ∧ t.block.sampleOf = s.block.sampleOf ∧ t.block.seq = .idle ∧
    (s.block.busHeld = false → t.block.busHeld = false) ∧
    (f = .illegalCommand → t.trace = s.trace) ∧
    (f = .transportError → ∃ (done : List BusEvent) (last : BusEvent), t.trace = s.trace ++ done ++ [last] ∧ last.reply = .fail ∧
      ∀ e ∈ done, ∃ bytes, e.reply = .ok bytes) ∧
    (f = .rangeReserved → ∃ done : List BusEvent, t.trace = s.trace ++ done ∧ ∀ e ∈ done, ∃ bytes, e.reply = .ok bytes) ∧
    t = { s with block := t.block, device := t.device, trace := t.trace, history := t.history }) ∧
  (∀ (s t : State) (c : CommandWord) (f : CommandFault) (data : List Byte), s.block.seq = .idle → s.port = some c →
    step s = .next t → t.history = s.history ++ [⟨c, ⟨.fault f, data⟩⟩] →
    data = [] ∧ t.block.sampleOf = s.block.sampleOf ∧ t.block.seq = .idle ∧
    (s.block.busHeld = false → t.block.busHeld = false) ∧
    (f = .illegalCommand ↔ illegalWord c) ∧
    (f = .illegalCommand → t.block = s.block ∧ t.device = s.device ∧ t.trace = s.trace) ∧
    (f = .transportError → ∃ (done : List BusEvent) (last : BusEvent), t.trace = s.trace ++ done ++ [last] ∧ last.reply = .fail ∧
      ∀ e ∈ done, ∃ bytes, e.reply = .ok bytes) ∧
    (f = .rangeReserved → ∃ done : List BusEvent, t.trace = s.trace ++ done ∧ ∀ e ∈ done, ∃ bytes, e.reply = .ok bytes) ∧
    t = { s with port := none, block := t.block, device := t.device, trace := t.trace, history := t.history })

/-- R86 and R232: every word accepted, legal or not, gives exactly one response, with a status of Table 30-3 and data of
the length R86 fixes, under the named premise that the primitives of a command return; the command then has ended,
having issued at most four. -/
def Obligations.EveryAcceptedWordGetsOneResponse : Prop :=
  ∀ (s : State) (c : CommandWord), s.block.seq = .idle → s.port = some c → s.busReturns →
    ∃ t response events, step s = .next t ∧ t.block.seq = .idle ∧ t.port = none ∧
      t.history = s.history ++ [⟨c, response⟩] ∧ Exchange.shaped ⟨c, response⟩ ∧ response.status.code.toNat < 4 ∧
      t.trace = s.trace ++ events ∧ events.length ≤ 4

/-- Table 30-3, Table 60-1: the status codes; no other code is ever produced. -/
def Obligations.StatusCodes : Prop :=
  Status.code .ok = 0x0 ∧ Status.code (.fault .transportError) = 0x1 ∧
  Status.code (.fault .illegalCommand) = 0x2 ∧ Status.code (.fault .rangeReserved) = 0x3 ∧
  ∀ st : Status, (Status.code st).toNat < 4

/-- R54: a `MemWrite` that returns leaves the bus released; a `MemRead` holds it from its `BusWrite` and, once it returns,
leaves it released; hence it is released whenever a command has ended. -/
def Obligations.AnEndedCommandLeavesTheBusReleased : Prop :=
  (∀ (s : State) (addr value : Byte), (s.memWrite addr value).1 ≠ .never →
    (s.memWrite addr value).2.block.busHeld = false) ∧
  (∀ (s : State) (dev : DevAddr) (addr : Byte) (bytes : List Byte), (s.busWrite dev [addr] true).1 = .ok bytes →
    (s.busWrite dev [addr] true).2.block.busHeld = true) ∧
  (∀ (s : State) (addr : Byte) (n : Nat), (s.memRead addr n).1 ≠ .never →
    (s.memRead addr n).2.block.busHeld = false) ∧
  (∀ (i : Instr) (s t : State), s.block.busHeld = false → exec i s = .next t → t.block.seq = .idle →
    t.block.busHeld = false)

/-- R68, R141: what a command does on the bus and what it answers do not depend on the block's state: no range and no
device data is kept between commands. -/
def Obligations.CommandsDoNotReadTheOldSample : Prop :=
  ∀ (i : Instr) (s t u : State) (b : Block), exec i s = .next t → exec i { s with block := b } = .next u →
    u.trace = t.trace ∧ u.device = t.device ∧ u.history = t.history

/-! ## Invariants of every step -/

/-- R23, R28, R54, R86, R90, R115 and the canonical form of the fixture's store: every step keeps the invariant. -/
def Obligations.EveryStepKeepsTheInvariant : Prop :=
  ∀ s t : State, Inv s → step s = .next t → Inv t

/-- The state after reset meets the invariant. -/
def Obligations.ResetMeetsTheInvariant : Prop := Inv State.reset

/-- R31: what reset leaves in the block, at the state after reset and at every later reset of an idle block with no
procedure in progress (R220): `SEQ = IDLE`, `BUS_HELD = 0`, `SAMPLE_VALID = 0`; the sample registers are left open;
`Config`, the device and the trace are not touched. -/
def Obligations.ResetLeavesTheSpecifiedValues : Prop :=
  (State.reset.block.seq = .idle ∧ State.reset.block.busHeld = false ∧ State.reset.block.sampleValid = false) ∧
  ∀ (s : State) (rest : List Input), s.hostFree → s.inputs = .reset :: rest →
    ∃ t, step s = .next t ∧ t.block.seq = .idle ∧ t.block.busHeld = false ∧ t.block.sampleValid = false ∧
      t.config = s.config ∧ t.device = s.device ∧ t.trace = s.trace

/-- R24: `SAMPLE_VALID` is 0 after reset; a DECODE or ACQUIRE that ends with OK sets it; a command with a fault leaves it;
nothing clears it except reset; and while it is 0 a read of the sample ports is a fault (log 3). -/
def Obligations.SampleValidIsSetBySamplesAndClearedByReset : Prop :=
  State.reset.block.sampleValid = false ∧
  (∀ (i : Instr) (s t : State) (data : List Byte),
    ((∃ rng b0 b1 b2 b3 b4 b5, i = .decode rng b0 b1 b2 b3 b4 b5) ∨ i = .acquire) → exec i s = .next t →
    t.history = s.history ++ [⟨encode i, ⟨.ok, data⟩⟩] → t.block.sampleValid = true) ∧
  (∀ (i : Instr) (s t : State) (f : CommandFault), exec i s = .next t →
    t.history = s.history ++ [⟨encode i, ⟨.fault f, []⟩⟩] → t.block.sampleValid = s.block.sampleValid) ∧
  (∀ s t : State, step s = .next t → s.block.sampleValid = true →
    t.block.sampleValid = true ∨ (s.hostFree ∧ s.inputs.head? = some .reset)) ∧
  ∀ b : Block, b.sampleValid = false →
    b.readRawPacked = .error .unwrittenSample ∧ b.readPhysPacked = .error .unwrittenSample

/-- R20, R21, R22: the sample registers change only in a step that runs a DECODE or an ACQUIRE, or a reset. -/
def Obligations.OnlyDecodeAcquireAndResetWriteTheSample : Prop :=
  ∀ s t : State, step s = .next t → t.block.sampleOf ≠ s.block.sampleOf →
    (s.hostFree ∧ s.inputs.head? = some .reset) ∨
    ∃ c i, s.block.seq = .idle ∧ s.port = some c ∧ decode c = .ok i ∧
      ((∃ rng b0 b1 b2 b3 b4 b5, i = .decode rng b0 b1 b2 b3 b4 b5) ∨ i = .acquire)

/-- R5, R10, R29: no step changes the parameters of the machine. -/
def Obligations.ConfigIsConstant : Prop := ∀ s t : State, step s = .next t → t.config = s.config

/-- R64, R115: the bus trace and the record of responses only grow, and a step adds at most four primitives and at most
one response. -/
def Obligations.TraceAndHistoryOnlyGrow : Prop :=
  ∀ s t : State, step s = .next t →
    (∃ events, t.trace = s.trace ++ events ∧ events.length ≤ 4) ∧
    ∃ exchanges, t.history = s.history ++ exchanges ∧ exchanges.length ≤ 1

/-! ## The MockDevice -/

/-- R63: on the fixture a WRREG stores its one byte and logs it, and every other byte reads as before. -/
def Obligations.WrregStoresOneByteOfTheMock : Prop :=
  ∀ (addr value : Byte) (s : State) (m : MockDevice), s.device = .mock m → m.verdicts = [] → Memory.wf m.mem = true →
    ∃ t m', exec (.wrreg addr value) s = .next t ∧ t.device = .mock m' ∧ m'.log = m.log ++ [(addr, value)] ∧
      (∀ a : Nat, Memory.read a m'.mem = if a = addr.toNat then value else Memory.read a m.mem) ∧
      Memory.wf m'.mem = true

/-- R63: on the fixture without the self-clearing variant no other command stores anything: every byte reads as before
and the log is the same. -/
def Obligations.OtherCommandsStoreNothingInTheMock : Prop :=
  ∀ (i : Instr) (s t : State) (m : MockDevice), (∀ addr value, i ≠ .wrreg addr value) → s.device = .mock m →
    m.selfClear = none → exec i s = .next t →
    ∃ m', t.device = .mock m' ∧ m'.log = m.log ∧ ∀ a : Nat, Memory.read a m'.mem = Memory.read a m.mem

/-! ## Host procedures -/

/-- R162, R164, R166: GETRANGE, GETDATARATE and GETORIENTATION are one RDREG each, and return `c & 0x03`, `c[5:3]` and
`c & 0x07` of the byte read. -/
def Obligations.QueriesReadOneRegisterAndMask : Prop :=
  ∀ (s : State) (rest : List Input) (p : Procedure) (reg c result : Byte) (d₁ d₂ : Device), s.hostFree →
    s.inputs = .call p :: rest →
    (p, reg, result) ∈
      [(Procedure.getRange, s.config.regXyzDataCfg, c &&& 0x03),
       (Procedure.getDataRate, s.config.regCtrl1, (c.extractLsb' 3 3).setWidth 8),
       (Procedure.getOrientation, s.config.regPlStatus, c &&& 0x07)] →
    s.device.write [reg] true = (.ok [], d₁) → d₁.read 1 = (.ok [c], d₂) →
    stepN 3 s = .next { s with
      block := { s.block with busHeld := false }
      device := d₂
      trace := s.trace ++ [.write s.config.devAddr [reg] true (.ok []), .read s.config.devAddr 1 (.ok [c])]
      history := s.history ++ [⟨encode (.rdreg reg), ⟨.ok, [c]⟩⟩]
      inputs := rest
      host := { s.host with results := s.host.results ++ [.ok [result]] } }

/-- R163, R168: SETRANGE on any device that completes its primitives: the read of the control register, the standby
write with bit 0 cleared, the whole-byte range write, the restoring write. -/
def Obligations.SetRangeWritesStandbyRangeRestore : Prop :=
  ∀ (s : State) (rest : List Input) (r : RangeSetting) (c : Byte) (d₁ d₂ d₃ d₄ d₅ : Device), s.hostFree →
    s.inputs = .call (.setRange r) :: rest →
    s.device.write [s.config.regCtrl1] true = (.ok [], d₁) → d₁.read 1 = (.ok [c], d₂) →
    d₂.write [s.config.regCtrl1, c &&& 0xFE] false = (.ok [], d₃) →
    d₃.write [s.config.regXyzDataCfg, r.code.setWidth 8] false = (.ok [], d₄) →
    d₄.write [s.config.regCtrl1, c] false = (.ok [], d₅) →
    ∃ t, stepN 9 s = .next t ∧ t.host = { s.host with results := s.host.results ++ [.ok []] } ∧ t.inputs = rest ∧
      t.hostFree ∧ t.block.sampleOf = s.block.sampleOf ∧ t.device = d₅ ∧
      t.trace = s.trace ++
        [.write s.config.devAddr [s.config.regCtrl1] true (.ok []), .read s.config.devAddr 1 (.ok [c]),
         .write s.config.devAddr [s.config.regCtrl1, c &&& 0xFE] false (.ok []),
         .write s.config.devAddr [s.config.regXyzDataCfg, r.code.setWidth 8] false (.ok []),
         .write s.config.devAddr [s.config.regCtrl1, c] false (.ok [])]

/-- R165, R168: SETDATARATE on any device that completes its primitives: the read, the deactivating write, the write of
`m`, the reactivating write; each of
them keeps bits 7, 6, 2, 1 as read, the two before the last have bit 0 = 0 and the last restores it. -/
def Obligations.SetDataRateWritesStandbyRateRestore : Prop :=
  ∀ (s : State) (rest : List Input) (rate : RateCode) (c m : Byte) (d₁ d₂ d₃ d₄ d₅ : Device), s.hostFree →
    s.inputs = .call (.setDataRate rate) :: rest → m = (c &&& 0xC6) ||| (rate.setWidth 8 <<< 3) →
    s.device.write [s.config.regCtrl1] true = (.ok [], d₁) → d₁.read 1 = (.ok [c], d₂) →
    d₂.write [s.config.regCtrl1, c &&& 0xFE] false = (.ok [], d₃) →
    d₃.write [s.config.regCtrl1, m] false = (.ok [], d₄) →
    d₄.write [s.config.regCtrl1, m ||| (c &&& 0x01)] false = (.ok [], d₅) →
    ∃ t, stepN 9 s = .next t ∧ t.host = { s.host with results := s.host.results ++ [.ok []] } ∧ t.inputs = rest ∧
      t.hostFree ∧ t.block.sampleOf = s.block.sampleOf ∧ t.device = d₅ ∧
      t.trace = s.trace ++
        [.write s.config.devAddr [s.config.regCtrl1] true (.ok []), .read s.config.devAddr 1 (.ok [c]),
         .write s.config.devAddr [s.config.regCtrl1, c &&& 0xFE] false (.ok []),
         .write s.config.devAddr [s.config.regCtrl1, m] false (.ok []),
         .write s.config.devAddr [s.config.regCtrl1, m ||| (c &&& 0x01)] false (.ok [])] ∧
      m.extractLsb' 3 3 = rate ∧ (m ||| (c &&& 0x01)).extractLsb' 3 3 = rate ∧
      (c &&& 0xFE).getLsbD 0 = false ∧ m.getLsbD 0 = false ∧ (m ||| (c &&& 0x01)).getLsbD 0 = c.getLsbD 0 ∧
      ∀ k ∈ [7, 6, 2, 1], (c &&& 0xFE).getLsbD k = c.getLsbD k ∧ m.getLsbD k = c.getLsbD k ∧
        (m ||| (c &&& 0x01)).getLsbD k = c.getLsbD k

/-- §8 of the source through R162, R163 (`95_test_vectors.md` S1, S3): on the fixture GETRANGE after SETRANGE `r`
returns `r`, and the log shows the three writes in the standby order. -/
def Obligations.GetRangeAfterSetRangeReturnsIt : Prop :=
  ∀ (s : State) (m : MockDevice) (r : RangeSetting), s.hostFree →
    s.inputs = [.call (.setRange r), .call .getRange] → s.device = .mock m → m.verdicts = [] → m.selfClear = none →
    Memory.wf m.mem = true → s.config.regCtrl1 ≠ s.config.regXyzDataCfg →
    ∃ t m', stepN 12 s = .next t ∧ t.hostFree ∧
      t.host.results = s.host.results ++ [.ok [], .ok [r.code.setWidth 8]] ∧ t.device = .mock m' ∧
      m'.log = m.log ++
        [(s.config.regCtrl1, Memory.read s.config.regCtrl1.toNat m.mem &&& 0xFE),
         (s.config.regXyzDataCfg, r.code.setWidth 8),
         (s.config.regCtrl1, Memory.read s.config.regCtrl1.toNat m.mem)]

/-- §8 of the source through R164, R165 (`95_test_vectors.md` S2): on the fixture GETDATARATE after SETDATARATE `rate`
returns `rate`; the activation bit is as it was, and every write before the last is in standby. -/
def Obligations.GetDataRateAfterSetDataRateReturnsIt : Prop :=
  ∀ (s : State) (m : MockDevice) (rate : RateCode) (c : Byte), s.hostFree →
    s.inputs = [.call (.setDataRate rate), .call .getDataRate] → s.device = .mock m → m.verdicts = [] →
    m.selfClear = none → Memory.wf m.mem = true → c = Memory.read s.config.regCtrl1.toNat m.mem →
    ∃ t m' a b d, stepN 12 s = .next t ∧ t.hostFree ∧
      t.host.results = s.host.results ++ [.ok [], .ok [rate.setWidth 8]] ∧ t.device = .mock m' ∧
      m'.log = m.log ++ [(s.config.regCtrl1, a), (s.config.regCtrl1, b), (s.config.regCtrl1, d)] ∧
      a.getLsbD 0 = false ∧ b.getLsbD 0 = false ∧ d.getLsbD 0 = c.getLsbD 0 ∧
      Memory.read s.config.regCtrl1.toNat m'.mem = d

/-- R161, R194 (`95_test_vectors.md` S6): INITIALIZE whose identity read answers another byte than `DEVICE_ID` fails
after that one command; no write is issued, `DRV` is Uninitialized. -/
def Obligations.IdentityMismatchIssuesNoWrite : Prop :=
  ∀ (s : State) (rest : List Input) (id : Byte) (d₁ d₂ : Device), s.hostFree → s.inputs = .call .initialise :: rest →
    s.device.write [s.config.regWhoAmI] true = (.ok [], d₁) → d₁.read 1 = (.ok [id], d₂) → id ≠ s.config.deviceId →
    stepN 3 s = .next { s with
      block := { s.block with busHeld := false }
      device := d₂
      trace := s.trace ++
        [.write s.config.devAddr [s.config.regWhoAmI] true (.ok []), .read s.config.devAddr 1 (.ok [id])]
      history := s.history ++ [⟨encode (.rdreg s.config.regWhoAmI), ⟨.ok, [id]⟩⟩]
      inputs := rest
      host :=
        { drv := .uninitialized, job := none, results := s.host.results ++ [.failed .identityMismatch] } }

/-- R161: the writes of INITIALIZE after the poll has ended, each issued when the one before it answered OK, in order;
after the last, `DRV` is Ready. -/
def Obligations.InitializeIssuesItsWritesInOrder : Prop :=
  ∀ (s : State) (job next : Job) (i : Instr) (resp : Response), s.block.seq = .idle → s.port = none →
    s.host.job = some job → s.lastResponse = some resp → resp.status = .ok →
    ((job, i, next) ∈
      [(Job.initRange, Instr.wrreg s.config.regCtrl2 s.config.ctrl2HiresValue, Job.initHires),
       (Job.initHires, Instr.wrreg s.config.regIntEn s.config.intEnDrdyValue, Job.initIntEn),
       (Job.initIntEn, Instr.wrreg s.config.regIntMap s.config.intMapDrdyValue, Job.initIntMap),
       (Job.initIntMap, Instr.wrreg s.config.regPlCfg s.config.plCfgEnableValue, Job.initPlCfg),
       (Job.initPlCfg, Instr.wrreg s.config.regCtrl1
         (0x01 ||| s.config.ctrl1LnoiseMask ||| (s.config.rateCodeMaxRate.setWidth 8 <<< 3)), Job.initActivate)] →
      step s = .next { s with port := some (encode i), host := { s.host with job := some next } }) ∧
    (job = .initActivate →
      step s = .next { s with
        host := { drv := .ready, job := none, results := s.host.results ++ [.ok []] } })

/-- R171, R161 step 2: while the reset bit reads 1 the host polls again, but after read number `RESET_POLL_MAX` it fails
with `ResetTimeout` and `DRV` Uninitialized; when the bit reads 0 the host writes range ±4g. At the bound 0, which no
read number equals, it polls without end: the model's choice of log 23. -/
def Obligations.ResetPollRepeatsUntilClearOrBound : Prop :=
  ∀ (s : State) (k : Nat) (c : Byte), s.block.seq = .idle → s.port = none → s.host.job = some (.initPoll k) →
    s.lastResponse = some ⟨.ok, [c]⟩ →
    (c &&& s.config.ctrl2ResetMask = 0 →
      step s = .next { s with
        port := some (encode (.wrreg s.config.regXyzDataCfg 0x01))
        host := { s.host with job := some .initRange } }) ∧
    (c &&& s.config.ctrl2ResetMask ≠ 0 → s.config.resetPollMax ≠ some (k + 1) →
      step s = .next { s with
        port := some (encode (.rdreg s.config.regCtrl2))
        host := { s.host with job := some (.initPoll (k + 1)) } }) ∧
    (c &&& s.config.ctrl2ResetMask ≠ 0 → s.config.resetPollMax = some (k + 1) →
      step s = .next { s with
        host := { drv := .uninitialized, job := none, results := s.host.results ++ [.failed .resetTimeout] } })

/-- R169, R161: a procedure whose command ends with a status other than OK stops, issues nothing more and reports
`TransportError`; `DRV` becomes Uninitialized in INITIALIZE and is unchanged elsewhere. -/
def Obligations.AHostProcedureStopsAtItsFirstFault : Prop :=
  ∀ (s : State) (job : Job) (f : CommandFault) (data : List Byte), s.block.seq = .idle → s.port = none →
    s.host.job = some job → s.lastResponse = some ⟨.fault f, data⟩ →
    step s = .next { s with
      host :=
        { drv := if job.isInit then .uninitialized else s.host.drv
          job := none
          results := s.host.results ++ [.failed .transportError] } }

/-- R171: with an unbounded poll, INITIALIZE leaves the poll when the device's reset bit reads 0 after finitely many
reads, the device law of R35, here as the replies of the oracle. -/
def Obligations.UnboundedPollEndsWhenTheResetBitClears : Prop :=
  ∀ (s : State) (k draws : Nat) (busy : List Byte) (last : Byte) (rest : List BusReply), s.block.seq = .idle →
    s.host.job = some (.initPoll k) → s.port = some (encode (.rdreg s.config.regCtrl2)) →
    s.config.resetPollMax = none → (∀ c ∈ busy, resetBitSet s.config c) → ¬ resetBitSet s.config last →
    s.device = .oracle ((busy.flatMap fun c => ([.ok [], .ok [c]] : List BusReply)) ++
      ([.ok [], .ok [last]] : List BusReply) ++ rest) draws →
    ∃ t, stepN (2 * (busy.length + 1)) s = .next t ∧ t.host.job = some .initRange ∧ t.host.drv = s.host.drv ∧
      t.port = some (encode (.wrreg s.config.regXyzDataCfg 0x01)) ∧ t.device = .oracle rest draws ∧
      t.history.length = s.history.length + busy.length + 1

/-- R161, R171, R168's last sentence: INITIALIZE run to success. On a device that reports `DEVICE_ID` and whose reset bit
reads 1 in the polls `busy` and then 0, with every primitive completed and the bound of the poll not reached, the
procedure issues its writes in the order of the seven steps and ends with `DRV` Ready and the block's sample as it
was. -/
def Obligations.InitializeRunsToReady : Prop :=
  ∀ (s : State) (rest : List Input) (busy : List Byte) (last : Byte) (draws : Nat), s.hostFree →
    s.inputs = .call .initialise :: rest → (∀ c ∈ busy, resetBitSet s.config c) → ¬ resetBitSet s.config last →
    (∀ bound, s.config.resetPollMax = some bound → busy.length < bound) →
    s.device = .oracle (([.ok [], .ok [s.config.deviceId], .ok []] : List BusReply) ++
      (busy.flatMap fun c => ([.ok [], .ok [c]] : List BusReply)) ++ ([.ok [], .ok [last]] : List BusReply) ++
      List.replicate 6 (BusReply.ok [])) draws →
    ∃ t events, stepN (2 * busy.length + 19) s = .next t ∧ t.hostFree ∧ t.host.drv = .ready ∧
      t.host.results = s.host.results ++ [.ok []] ∧ t.inputs = rest ∧ t.block.sampleOf = s.block.sampleOf ∧
      t.device = .oracle [] draws ∧ t.trace = s.trace ++ events ∧
      accesses events =
        ([.readAs s.config.regWhoAmI s.config.deviceId, .wrote s.config.regCtrl2 s.config.ctrl2ResetMask] :
            List RegAccess) ++
          (busy.map fun c => RegAccess.readAs s.config.regCtrl2 c) ++
          ([.readAs s.config.regCtrl2 last, .wrote s.config.regXyzDataCfg 0x01,
           .wrote s.config.regCtrl2 s.config.ctrl2HiresValue, .wrote s.config.regIntEn s.config.intEnDrdyValue,
           .wrote s.config.regIntMap s.config.intMapDrdyValue, .wrote s.config.regPlCfg s.config.plCfgEnableValue,
           .wrote s.config.regCtrl1
             (0x01 ||| s.config.ctrl1LnoiseMask ||| (s.config.rateCodeMaxRate.setWidth 8 <<< 3))] : List RegAccess)

/-- R161 under the device law of R40: if the identity register reads `DEVICE_ID`, INITIALIZE goes on past its first
command and writes the reset bit. -/
def Obligations.InitializeGoesOnUnderTheIdentityLaw : Prop :=
  ∀ (s t : State) (rest : List Input) (events : List BusEvent), s.hostFree → s.inputs = .call .initialise :: rest →
    stepN 3 s = .next t → t.trace = s.trace ++ events → (∀ e ∈ events, ∃ bytes, e.reply = .ok bytes) →
    identityLaw s.config (accesses events) →
    t.host.drv = .configuring ∧ t.host.job = some .initReset ∧
      t.port = some (encode (.wrreg s.config.regCtrl2 s.config.ctrl2ResetMask))

/-- R163, R168 under the device law of R43 in the form log 26 gives it, on any device that completes its primitives and
is in no reset of its own: SETRANGE changes the range whether the device was active or not, so that GETRANGE then returns
it. -/
def Obligations.SetRangeTakesEffectUnderTheRangeLaw : Prop :=
  ∀ (s t : State) (r : RangeSetting) (events : List BusEvent) (traits : DeviceTraits) (w : DeviceView), s.hostFree →
    s.inputs = [.call (.setRange r), .call .getRange] → s.config.regCtrl1 ≠ s.config.regXyzDataCfg → s.config.regCtrl2 ≠ s.config.regCtrl1 →
    s.config.regCtrl2 ≠ s.config.regXyzDataCfg →
    stepN 12 s = .next t → t.trace = s.trace ++ events → (∀ e ∈ events, ∃ bytes, e.reply = .ok bytes) →
    w.phase = .settled → rangeLaw s.config traits w (accesses events) →
    t.hostFree ∧ t.host.results = s.host.results ++ [.ok [], .ok [r.code.setWidth 8]]

/-- R226 under the device law of R43 in the form log 26 gives it: a bare WRREG of the data-config register completes with
OK; while the device is active the read after it shows the old range, and in standby the new one. -/
def Obligations.ABareRangeWriteWhileActiveIsIgnored : Prop :=
  ∀ (s t : State) (v : Byte) (events : List BusEvent) (traits : DeviceTraits) (w : DeviceView), s.hostFree →
    s.inputs = [.command (encode (.rdreg s.config.regCtrl1)), .command (encode (.rdreg s.config.regXyzDataCfg)),
      .command (encode (.wrreg s.config.regXyzDataCfg v)), .command (encode (.rdreg s.config.regXyzDataCfg))] →
    s.config.regCtrl1 ≠ s.config.regXyzDataCfg → s.config.regCtrl2 ≠ s.config.regCtrl1 →
    s.config.regCtrl2 ≠ s.config.regXyzDataCfg →
    stepN 8 s = .next t → t.trace = s.trace ++ events →
    (∀ e ∈ events, ∃ bytes, e.reply = .ok bytes) → w.phase = .settled → rangeLaw s.config traits w (accesses events) →
    ∃ control before after : Byte,
      t.history = s.history ++
        [⟨encode (.rdreg s.config.regCtrl1), ⟨.ok, [control]⟩⟩, ⟨encode (.rdreg s.config.regXyzDataCfg), ⟨.ok, [before]⟩⟩,
         ⟨encode (.wrreg s.config.regXyzDataCfg v), ⟨.ok, []⟩⟩,
         ⟨encode (.rdreg s.config.regXyzDataCfg), ⟨.ok, [after]⟩⟩] ∧
      (ctrl1Active control = true → rangeField after = rangeField before) ∧
      (ctrl1Active control = false → rangeField after = rangeField v)

/-- R161, R171 under the device laws of R35 and R40 in the form log 26 gives them: on any device that completes its
primitives, INITIALIZE ends Ready within the reads that a device reset can take, if the bound of the poll lies beyond
them. -/
def Obligations.InitializeEndsUnderTheResetLaw : Prop :=
  ∀ (s t : State) (k : Nat) (events : List BusEvent) (traits : DeviceTraits) (w : DeviceView), s.hostFree →
    s.inputs = [.call .initialise] → (∀ bound, s.config.resetPollMax = some bound → traits.resetReads < bound) →
    2 * traits.resetReads + 19 ≤ k → stepN k s = .next t → t.trace = s.trace ++ events →
    (∀ e ∈ events, ∃ bytes, e.reply = .ok bytes) → w.phase = .settled → identityLaw s.config (accesses events) →
    resetLaw s.config traits w (accesses events) →
    t.hostFree ∧ t.host.drv = .ready ∧ t.host.results = s.host.results ++ [.ok []]

/-- R161 step 3 and R222 (3) under the device laws of R35, R40 and R43 in the form log 26 gives them, and with R161's
reading that the device is not active after its reset: whatever the active bit and the range before, GETRANGE after
INITIALIZE returns code 1, ±4g (the code: D4, log 18). -/
def Obligations.GetRangeAfterInitializeReturnsFourG : Prop :=
  ∀ (s t : State) (k : Nat) (events : List BusEvent) (traits : DeviceTraits) (w : DeviceView), s.hostFree →
    s.inputs = [.call .initialise, .call .getRange] → registersApart s.config → configWf s.config = true →
    (∀ bound, s.config.resetPollMax = some bound → traits.resetReads < bound) →
    traits.activeAfterReset = some false → 2 * traits.resetReads + 22 ≤ k → stepN k s = .next t →
    t.trace = s.trace ++ events → (∀ e ∈ events, ∃ bytes, e.reply = .ok bytes) → w.phase = .settled →
    identityLaw s.config (accesses events) → resetLaw s.config traits w (accesses events) →
    rangeLaw s.config traits w (accesses events) →
    t.hostFree ∧ t.host.drv = .ready ∧ t.host.results = s.host.results ++ [.ok [], .ok [0x01]]
end

