-- ==== Sys2Proof/Laws/Device.lean ====
section
/-! SUPPORT. The small lemmas of the device laws: what a frame of the bus trace is as an access, and how a law goes along a
log. -/

namespace Sys2Proof.Laws

open Sys2Proof.Machine

@[simp] theorem accesses_nil : accesses [] = [] := rfl

@[simp] theorem accesses_wrote (dev : DevAddr) (a v : Byte) (bytes : List Byte) (rest : List BusEvent) :
    accesses (.write dev [a, v] false (.ok bytes) :: rest) = .wrote a v :: accesses rest := rfl

@[simp] theorem accesses_mayHaveWritten (dev : DevAddr) (a v : Byte) (rest : List BusEvent) :
    accesses (.write dev [a, v] false .fail :: rest) = .mayHaveWritten a v :: accesses rest := rfl

@[simp] theorem accesses_readAs (dev dev' : DevAddr) (a v : Byte) (n : Nat) (bytes tail : List Byte)
    (rest : List BusEvent) :
    accesses (.write dev [a] true (.ok bytes) :: .read dev' n (.ok (v :: tail)) :: rest) =
      .readAs a v :: accesses rest := rfl

/-- A law along one log after another: the second from the view the first leaves. -/
theorem lawful_append (cfg : Config) (traits : DeviceTraits) (allowed : RegAccess → DeviceView → Prop) :
    ∀ (w : DeviceView) (l m : List RegAccess),
      w.lawful cfg traits allowed (l ++ m) ↔
        w.lawful cfg traits allowed l ∧ (l.foldl (DeviceView.after cfg traits) w).lawful cfg traits allowed m
  | _, [], _ => by simp [DeviceView.lawful]
  | w, x :: l, m => by
    simp [DeviceView.lawful, lawful_append cfg traits allowed (w.after cfg traits x) l m, and_assoc]

/-- A completed reset write starts a device reset and leaves the rest of the device open (R35, N7). -/
theorem afterWrite_reset {cfg : Config} {traits : DeviceTraits} {v : Byte} {w : DeviceView} (hw : w.phase = .settled)
    (hv : resetBitSet cfg v) : w.afterWrite cfg traits cfg.regCtrl2 v = ⟨none, none, .running traits.resetReads⟩ := by
  simp only [DeviceView.afterWrite, hw, if_pos hv, if_true]

/-- A read that shows the reset bit as 0 ends a running device reset (R35). -/
theorem afterRead_resetOver {cfg : Config} {traits : DeviceTraits} {v : Byte} {w : DeviceView} {n : Nat}
    (hw : w.phase = .running n) (hv : ¬ resetBitSet cfg v) :
    w.afterRead cfg traits cfg.regCtrl2 v = ⟨traits.activeAfterReset, none, .settled⟩ := by
  simp [DeviceView.afterRead, hw, hv]

/-- A range write is ignored while the device is active (R43). -/
theorem afterWrite_rangeWhileActive {cfg : Config} {traits : DeviceTraits} {v : Byte} {w : DeviceView}
    (hp : w.phase = .settled) (ha : w.active = some true) (h₁ : cfg.regXyzDataCfg ≠ cfg.regCtrl1)
    (h₂ : cfg.regXyzDataCfg ≠ cfg.regCtrl2) : w.afterWrite cfg traits cfg.regXyzDataCfg v = w := by
  simp [DeviceView.afterWrite, hp, ha, h₁, h₂]

/-- A range write takes effect in standby (R43). -/
theorem afterWrite_rangeInStandby {cfg : Config} {traits : DeviceTraits} {v : Byte} {w : DeviceView}
    (hp : w.phase = .settled) (ha : w.active = some false) (h₁ : cfg.regXyzDataCfg ≠ cfg.regCtrl1)
    (h₂ : cfg.regXyzDataCfg ≠ cfg.regCtrl2) :
    w.afterWrite cfg traits cfg.regXyzDataCfg v = { w with range := some (rangeField v) } := by
  simp [DeviceView.afterWrite, hp, ha, h₁, h₂]

/-- Any write while a device reset runs, or may run, leaves everything open (U5). -/
theorem afterWrite_duringReset {cfg : Config} {traits : DeviceTraits} {a v : Byte} {w : DeviceView}
    (hp : w.phase ≠ .settled) : w.afterWrite cfg traits a v = .allUnknown := by
  unfold DeviceView.afterWrite
  cases hw : w.phase with
  | settled => exact absurd hw hp
  | running n => rfl
  | unknown => rfl

end Sys2Proof.Laws
end

