-- ==== Sys2Proof/Laws/Encoding.lean ====
section
/-! SUPPORT. Command words as numbers: the value of each encoding and of each field, so that a question about a field
is linear arithmetic. -/

namespace Sys2Proof.Laws

theorem toNat_append_eq_add {n m : Nat} (x : BitVec n) (y : BitVec m) :
    (x ++ y).toNat = x.toNat * 2 ^ m + y.toNat := by
  rw [BitVec.toNat_append, ← Nat.shiftLeft_add_eq_or_of_lt y.isLt, Nat.shiftLeft_eq]

theorem toNat_extract_eq_div_mod {n : Nat} (c : BitVec n) (k l : Nat) :
    (c.extractLsb' k l).toNat = c.toNat / 2 ^ k % 2 ^ l := by
  rw [BitVec.extractLsb'_toNat, Nat.shiftRight_eq_div_pow]

theorem encode_wrreg_toNat (addr value : Byte) :
    (encode (.wrreg addr value)).toNat = 0x01 * 2 ^ 56 + addr.toNat * 2 ^ 48 + value.toNat := by
  change (opWrreg ++ addr ++ (0 : BitVec 40) ++ value : BitVec (8 + 8 + 40 + 8)).toNat = _
  simp only [toNat_append_eq_add, opWrreg]
  simp
  omega

theorem encode_rdreg_toNat (addr : Byte) :
    (encode (.rdreg addr)).toNat = 0x02 * 2 ^ 56 + addr.toNat * 2 ^ 48 := by
  change (opRdreg ++ addr ++ (0 : BitVec 48) : BitVec (8 + 8 + 48)).toNat = _
  simp only [toNat_append_eq_add, opRdreg]
  simp
  omega

theorem encode_rdblk_toNat (addr count : Byte) :
    (encode (.rdblk addr count)).toNat = 0x03 * 2 ^ 56 + addr.toNat * 2 ^ 48 + count.toNat := by
  change (opRdblk ++ addr ++ (0 : BitVec 40) ++ count : BitVec (8 + 8 + 40 + 8)).toNat = _
  simp only [toNat_append_eq_add, opRdblk]
  simp
  omega

theorem encode_decode_toNat (rng : RangeCode) (b0 b1 b2 b3 b4 b5 : Byte) :
    (encode (.decode rng b0 b1 b2 b3 b4 b5)).toNat =
      0x10 * 2 ^ 56 + rng.toNat * 2 ^ 48 + b0.toNat * 2 ^ 40 + b1.toNat * 2 ^ 32 + b2.toNat * 2 ^ 24 +
        b3.toNat * 2 ^ 16 + b4.toNat * 2 ^ 8 + b5.toNat := by
  change (opDecode ++ (0 : BitVec 6) ++ rng ++ b0 ++ b1 ++ b2 ++ b3 ++ b4 ++ b5 :
    BitVec (8 + 6 + 2 + 8 + 8 + 8 + 8 + 8 + 8)).toNat = _
  simp only [toNat_append_eq_add, opDecode]
  simp
  omega

theorem encode_acquire_toNat : (encode .acquire).toNat = 0x11 * 2 ^ 56 := by decide

end Sys2Proof.Laws
end

