-- ==== Sys2Proof/Laws/Memory.lean ====
section
/-! SUPPORT. The laws of the fixture's byte store: a read after a write, and that a write keeps the canonical form. -/

namespace Sys2Proof.Laws

open Sys2Proof.Machine

theorem wfFrom_mono {lo lo' : Nat} (h : lo' ≤ lo) : ∀ {m : Memory}, Memory.wfFrom lo m = true → Memory.wfFrom lo' m = true
  | [], _ => rfl
  | c :: rest, hm => by
    simp only [Memory.wfFrom, Bool.and_eq_true, decide_eq_true_eq] at hm ⊢
    exact ⟨⟨⟨by omega, hm.1.1.2⟩, hm.1.2⟩, hm.2⟩

/-- Below its first possible address a canonical store lists nothing. -/
theorem read_below {a lo : Nat} (h : a < lo) : ∀ {m : Memory}, Memory.wfFrom lo m = true → Memory.read a m = Memory.unlisted
  | [], _ => rfl
  | c :: rest, hm => by
    simp only [Memory.wfFrom, Bool.and_eq_true, decide_eq_true_eq] at hm
    rw [Memory.read, if_neg (by omega)]
    exact read_below (by omega) hm.2

theorem put_wfFrom {lo a : Nat} {v : Byte} {m : Memory} (hlo : lo ≤ a) (ha : a < 256)
    (hm : Memory.wfFrom (a + 1) m = true) : Memory.wfFrom lo (Memory.put a v m) = true := by
  unfold Memory.put
  split
  · exact wfFrom_mono (by omega) hm
  · simp [Memory.wfFrom, *]

theorem write_wfFrom {a : Nat} {v : Byte} (ha : a < 256) :
    ∀ {lo : Nat} {m : Memory}, lo ≤ a → Memory.wfFrom lo m = true → Memory.wfFrom lo (Memory.write a v m) = true
  | lo, [], hlo, _ => put_wfFrom hlo ha rfl
  | lo, c :: rest, hlo, hm => by
    have hm' := hm
    simp only [Memory.wfFrom, Bool.and_eq_true, decide_eq_true_eq] at hm
    rw [Memory.write]
    split
    · refine put_wfFrom hlo ha ?_
      simp only [Memory.wfFrom, Bool.and_eq_true, decide_eq_true_eq]
      exact ⟨⟨⟨by omega, hm.1.1.2⟩, hm.1.2⟩, hm.2⟩
    · split
      · exact put_wfFrom hlo ha (by simp [*])
      · simp only [Memory.wfFrom, Bool.and_eq_true, decide_eq_true_eq]
        exact ⟨hm.1, write_wfFrom ha (by omega) hm.2⟩

/-- A write keeps the canonical form. -/
theorem write_wf {m : Memory} (a : Byte) (v : Byte) (hm : Memory.wf m = true) :
    Memory.wf (Memory.write a.toNat v m) = true :=
  write_wfFrom a.isLt (Nat.zero_le _) hm

theorem read_put_same {a : Nat} {v : Byte} {m : Memory} (hm : Memory.wfFrom (a + 1) m = true) :
    Memory.read a (Memory.put a v m) = v := by
  unfold Memory.put
  split
  · rw [read_below (Nat.lt_succ_self a) hm, ‹v = _›]
  · simp [Memory.read]

theorem read_put_other {a b : Nat} {v : Byte} {m : Memory} (h : b ≠ a) :
    Memory.read b (Memory.put a v m) = Memory.read b m := by
  unfold Memory.put
  split
  · rfl
  · rw [Memory.read, if_neg (Ne.symm h)]

theorem read_write_same_from {a : Nat} {v : Byte} :
    ∀ {lo : Nat} {m : Memory}, Memory.wfFrom lo m = true → Memory.read a (Memory.write a v m) = v
  | _, [], _ => read_put_same rfl
  | lo, c :: rest, hm => by
    have hm' := hm
    simp only [Memory.wfFrom, Bool.and_eq_true, decide_eq_true_eq] at hm
    rw [Memory.write]
    split
    · refine read_put_same ?_
      simp only [Memory.wfFrom, Bool.and_eq_true, decide_eq_true_eq]
      exact ⟨⟨⟨by omega, hm.1.1.2⟩, hm.1.2⟩, hm.2⟩
    · split
      · exact read_put_same (by simp [*])
      · rw [Memory.read, if_neg (by omega)]
        exact read_write_same_from hm.2

/-- A read of the address just written gives the byte written. -/
theorem read_write_same {m : Memory} (a : Nat) (v : Byte) (hm : Memory.wf m = true) :
    Memory.read a (Memory.write a v m) = v :=
  read_write_same_from hm

/-- A write leaves every other address alone. -/
theorem read_write_other {a b : Nat} {v : Byte} (h : b ≠ a) :
    ∀ {m : Memory}, Memory.read b (Memory.write a v m) = Memory.read b m
  | [] => read_put_other h
  | c :: rest => by
    rw [Memory.write]
    split
    · exact read_put_other h
    · split
      · rw [read_put_other h, Memory.read, if_neg (by omega)]
      · rw [Memory.read, Memory.read, read_write_other h]

end Sys2Proof.Laws
end

