-- ==== Sys2Proof/Laws/State.lean ====
section
/-! SUPPORT. One lemma per field per update of State, each true by unfolding, so that no later proof unfolds a record
update. -/

namespace Sys2Proof.Laws

open Sys2Proof.Machine

@[simp] theorem accept_block (s : State) :
    s.accept.block = { s.block with seq := .busy } := rfl
@[simp] theorem accept_config (s : State) :
    s.accept.config = s.config := rfl
@[simp] theorem accept_port (s : State) :
    s.accept.port = s.port := rfl
@[simp] theorem accept_device (s : State) :
    s.accept.device = s.device := rfl
@[simp] theorem accept_trace (s : State) :
    s.accept.trace = s.trace := rfl
@[simp] theorem accept_history (s : State) :
    s.accept.history = s.history := rfl
@[simp] theorem accept_host (s : State) :
    s.accept.host = s.host := rfl
@[simp] theorem accept_inputs (s : State) :
    s.accept.inputs = s.inputs := rfl
@[simp] theorem accept_resets (s : State) :
    s.accept.resets = s.resets := rfl

@[simp] theorem respond_block (s : State) (cmd : CommandWord) (status : Status) (data : List Byte) :
    (s.respond cmd status data).block = { s.block with seq := .idle } := rfl
@[simp] theorem respond_config (s : State) (cmd : CommandWord) (status : Status) (data : List Byte) :
    (s.respond cmd status data).config = s.config := rfl
@[simp] theorem respond_port (s : State) (cmd : CommandWord) (status : Status) (data : List Byte) :
    (s.respond cmd status data).port = s.port := rfl
@[simp] theorem respond_device (s : State) (cmd : CommandWord) (status : Status) (data : List Byte) :
    (s.respond cmd status data).device = s.device := rfl
@[simp] theorem respond_trace (s : State) (cmd : CommandWord) (status : Status) (data : List Byte) :
    (s.respond cmd status data).trace = s.trace := rfl
@[simp] theorem respond_history (s : State) (cmd : CommandWord) (status : Status) (data : List Byte) :
    (s.respond cmd status data).history = s.history ++ [⟨cmd, ⟨status, data⟩⟩] := rfl
@[simp] theorem respond_host (s : State) (cmd : CommandWord) (status : Status) (data : List Byte) :
    (s.respond cmd status data).host = s.host := rfl
@[simp] theorem respond_inputs (s : State) (cmd : CommandWord) (status : Status) (data : List Byte) :
    (s.respond cmd status data).inputs = s.inputs := rfl
@[simp] theorem respond_resets (s : State) (cmd : CommandWord) (status : Status) (data : List Byte) :
    (s.respond cmd status data).resets = s.resets := rfl

@[simp] theorem takeFault_block (s : State) (cmd : CommandWord) (f : CommandFault) :
    (s.takeFault cmd f).block = { s.block with seq := .idle } := rfl
@[simp] theorem takeFault_config (s : State) (cmd : CommandWord) (f : CommandFault) :
    (s.takeFault cmd f).config = s.config := rfl
@[simp] theorem takeFault_port (s : State) (cmd : CommandWord) (f : CommandFault) :
    (s.takeFault cmd f).port = s.port := rfl
@[simp] theorem takeFault_device (s : State) (cmd : CommandWord) (f : CommandFault) :
    (s.takeFault cmd f).device = s.device := rfl
@[simp] theorem takeFault_trace (s : State) (cmd : CommandWord) (f : CommandFault) :
    (s.takeFault cmd f).trace = s.trace := rfl
@[simp] theorem takeFault_history (s : State) (cmd : CommandWord) (f : CommandFault) :
    (s.takeFault cmd f).history = s.history ++ [⟨cmd, ⟨.fault f, []⟩⟩] := rfl
@[simp] theorem takeFault_host (s : State) (cmd : CommandWord) (f : CommandFault) :
    (s.takeFault cmd f).host = s.host := rfl
@[simp] theorem takeFault_inputs (s : State) (cmd : CommandWord) (f : CommandFault) :
    (s.takeFault cmd f).inputs = s.inputs := rfl
@[simp] theorem takeFault_resets (s : State) (cmd : CommandWord) (f : CommandFault) :
    (s.takeFault cmd f).resets = s.resets := rfl

@[simp] theorem rejectIllegal_block (s : State) (cmd : CommandWord) :
    (s.rejectIllegal cmd).block = { s.block with seq := .idle } := rfl
@[simp] theorem rejectIllegal_config (s : State) (cmd : CommandWord) :
    (s.rejectIllegal cmd).config = s.config := rfl
@[simp] theorem rejectIllegal_port (s : State) (cmd : CommandWord) :
    (s.rejectIllegal cmd).port = s.port := rfl
@[simp] theorem rejectIllegal_device (s : State) (cmd : CommandWord) :
    (s.rejectIllegal cmd).device = s.device := rfl
@[simp] theorem rejectIllegal_trace (s : State) (cmd : CommandWord) :
    (s.rejectIllegal cmd).trace = s.trace := rfl
@[simp] theorem rejectIllegal_history (s : State) (cmd : CommandWord) :
    (s.rejectIllegal cmd).history = s.history ++ [⟨cmd, ⟨.fault .illegalCommand, []⟩⟩] := rfl
@[simp] theorem rejectIllegal_host (s : State) (cmd : CommandWord) :
    (s.rejectIllegal cmd).host = s.host := rfl
@[simp] theorem rejectIllegal_inputs (s : State) (cmd : CommandWord) :
    (s.rejectIllegal cmd).inputs = s.inputs := rfl
@[simp] theorem rejectIllegal_resets (s : State) (cmd : CommandWord) :
    (s.rejectIllegal cmd).resets = s.resets := rfl

@[simp] theorem busWrite_block (s : State) (dev : DevAddr) (bytes : List Byte) (hold : Bool) :
    (s.busWrite dev bytes hold).2.block = { s.block with busHeld := heldAfterWrite hold (s.device.write bytes hold).1 s.block.busHeld } := rfl
@[simp] theorem busWrite_config (s : State) (dev : DevAddr) (bytes : List Byte) (hold : Bool) :
    (s.busWrite dev bytes hold).2.config = s.config := rfl
@[simp] theorem busWrite_port (s : State) (dev : DevAddr) (bytes : List Byte) (hold : Bool) :
    (s.busWrite dev bytes hold).2.port = s.port := rfl
@[simp] theorem busWrite_device (s : State) (dev : DevAddr) (bytes : List Byte) (hold : Bool) :
    (s.busWrite dev bytes hold).2.device = (s.device.write bytes hold).2 := rfl
@[simp] theorem busWrite_trace (s : State) (dev : DevAddr) (bytes : List Byte) (hold : Bool) :
    (s.busWrite dev bytes hold).2.trace = s.trace ++ [.write dev bytes hold (s.device.write bytes hold).1] := rfl
@[simp] theorem busWrite_history (s : State) (dev : DevAddr) (bytes : List Byte) (hold : Bool) :
    (s.busWrite dev bytes hold).2.history = s.history := rfl
@[simp] theorem busWrite_host (s : State) (dev : DevAddr) (bytes : List Byte) (hold : Bool) :
    (s.busWrite dev bytes hold).2.host = s.host := rfl
@[simp] theorem busWrite_inputs (s : State) (dev : DevAddr) (bytes : List Byte) (hold : Bool) :
    (s.busWrite dev bytes hold).2.inputs = s.inputs := rfl
@[simp] theorem busWrite_resets (s : State) (dev : DevAddr) (bytes : List Byte) (hold : Bool) :
    (s.busWrite dev bytes hold).2.resets = s.resets := rfl

@[simp] theorem busRead_block (s : State) (dev : DevAddr) (n : Nat) :
    (s.busRead dev n).2.block = { s.block with busHeld := heldAfterRead (s.device.read n).1 s.block.busHeld } := rfl
@[simp] theorem busRead_config (s : State) (dev : DevAddr) (n : Nat) :
    (s.busRead dev n).2.config = s.config := rfl
@[simp] theorem busRead_port (s : State) (dev : DevAddr) (n : Nat) :
    (s.busRead dev n).2.port = s.port := rfl
@[simp] theorem busRead_device (s : State) (dev : DevAddr) (n : Nat) :
    (s.busRead dev n).2.device = (s.device.read n).2 := rfl
@[simp] theorem busRead_trace (s : State) (dev : DevAddr) (n : Nat) :
    (s.busRead dev n).2.trace = s.trace ++ [.read dev n (s.device.read n).1] := rfl
@[simp] theorem busRead_history (s : State) (dev : DevAddr) (n : Nat) :
    (s.busRead dev n).2.history = s.history := rfl
@[simp] theorem busRead_host (s : State) (dev : DevAddr) (n : Nat) :
    (s.busRead dev n).2.host = s.host := rfl
@[simp] theorem busRead_inputs (s : State) (dev : DevAddr) (n : Nat) :
    (s.busRead dev n).2.inputs = s.inputs := rfl
@[simp] theorem busRead_resets (s : State) (dev : DevAddr) (n : Nat) :
    (s.busRead dev n).2.resets = s.resets := rfl

@[simp] theorem resetBlock_block (s : State) :
    s.resetBlock.block = Block.afterReset (s.resets + 1) := rfl
@[simp] theorem resetBlock_config (s : State) :
    s.resetBlock.config = s.config := rfl
@[simp] theorem resetBlock_port (s : State) :
    s.resetBlock.port = s.port := rfl
@[simp] theorem resetBlock_device (s : State) :
    s.resetBlock.device = s.device := rfl
@[simp] theorem resetBlock_trace (s : State) :
    s.resetBlock.trace = s.trace := rfl
@[simp] theorem resetBlock_history (s : State) :
    s.resetBlock.history = s.history := rfl
@[simp] theorem resetBlock_host (s : State) :
    s.resetBlock.host = s.host := rfl
@[simp] theorem resetBlock_inputs (s : State) :
    s.resetBlock.inputs = s.inputs := rfl
@[simp] theorem resetBlock_resets (s : State) :
    s.resetBlock.resets = s.resets + 1 := rfl

@[simp] theorem presentWord_block (s : State) (w : CommandWord) :
    (presentWord w s).block = { s.block with seq := .idle } := rfl
@[simp] theorem presentWord_config (s : State) (w : CommandWord) :
    (presentWord w s).config = s.config := rfl
@[simp] theorem presentWord_port (s : State) (w : CommandWord) :
    (presentWord w s).port = some w := rfl
@[simp] theorem presentWord_device (s : State) (w : CommandWord) :
    (presentWord w s).device = s.device := rfl
@[simp] theorem presentWord_trace (s : State) (w : CommandWord) :
    (presentWord w s).trace = s.trace := rfl
@[simp] theorem presentWord_history (s : State) (w : CommandWord) :
    (presentWord w s).history = s.history := rfl
@[simp] theorem presentWord_host (s : State) (w : CommandWord) :
    (presentWord w s).host = s.host := rfl
@[simp] theorem presentWord_inputs (s : State) (w : CommandWord) :
    (presentWord w s).inputs = s.inputs := rfl
@[simp] theorem presentWord_resets (s : State) (w : CommandWord) :
    (presentWord w s).resets = s.resets := rfl

@[simp] theorem busWrite_reply (s : State) (dev : DevAddr) (bytes : List Byte) (hold : Bool) :
    (s.busWrite dev bytes hold).1 = (s.device.write bytes hold).1 := rfl
@[simp] theorem busRead_reply (s : State) (dev : DevAddr) (n : Nat) :
    (s.busRead dev n).1 = (s.device.read n).1 := rfl

@[simp] theorem heldAfterWrite_ok (hold before : Bool) (bytes : List Byte) :
    heldAfterWrite hold (.ok bytes) before = hold := rfl
@[simp] theorem heldAfterWrite_fail (hold before : Bool) : heldAfterWrite hold .fail before = false := rfl
@[simp] theorem heldAfterWrite_never (hold before : Bool) : heldAfterWrite hold .never before = before := rfl
@[simp] theorem heldAfterRead_ok (before : Bool) (bytes : List Byte) : heldAfterRead (.ok bytes) before = false := rfl
@[simp] theorem heldAfterRead_fail (before : Bool) : heldAfterRead .fail before = false := rfl
@[simp] theorem heldAfterRead_never (before : Bool) : heldAfterRead .never before = before := rfl

@[simp] theorem storeSample_seq (b : Block) (burst : Burst) (r : RangeSetting) :
    (b.storeSample burst r).seq = b.seq := rfl
@[simp] theorem storeSample_busHeld (b : Block) (burst : Burst) (r : RangeSetting) :
    (b.storeSample burst r).busHeld = b.busHeld := rfl
@[simp] theorem storeSample_sampleValid (b : Block) (burst : Burst) (r : RangeSetting) :
    (b.storeSample burst r).sampleValid = true := rfl

end Sys2Proof.Laws
end

