-- ==== Sys2Proof/Laws/Ops.lean ====
section
/-! SUPPORT. One lemma per shared operation that says everything it can do, cited instead of unfolding it. -/

namespace Sys2Proof.Laws

open Sys2Proof.Machine

/-- A completed `BusWrite` carries no bytes (R50). -/
theorem write_ok_bytes {d : Device} {sent got : List Byte} {hold : Bool} (h : (d.write sent hold).1 = .ok got) :
    got = [] := by
  cases d with
  | oracle replies draws =>
    simp only [Device.write, writeAnswer] at h
    split at h <;> simp_all
  | mock m =>
    simp only [Device.write, MockDevice.write] at h
    split at h <;> simp_all

/-- A completed `BusRead` of `n` returns exactly `n` bytes (R51). -/
theorem read_ok_length {d : Device} {n : Nat} {got : List Byte} (h : (d.read n).1 = .ok got) : got.length = n := by
  cases d with
  | oracle replies draws =>
    simp only [Device.read, readAnswer] at h
    split at h
    · split at h <;> simp_all
    · simp at h
    · simp at h
  | mock m =>
    simp only [Device.read, MockDevice.read] at h
    split at h
    · simp only [BusReply.ok.injEq] at h
      simp [← h, MockDevice.bytes]
    · simp at h
    · simp at h

/-- The three ways a register read transaction goes (R52): the address write completes and the read is issued, or the
address write fails or never returns and no read is issued. -/
theorem memRead_cases (s : State) (addr : Byte) (n : Nat) :
    ((s.device.write [addr] true).1 = .ok [] ∧
      s.memRead addr n = (s.busWrite s.config.devAddr [addr] true).2.busRead s.config.devAddr n) ∨
    ((s.device.write [addr] true).1 = .fail ∧
      s.memRead addr n = (.fail, (s.busWrite s.config.devAddr [addr] true).2)) ∨
    ((s.device.write [addr] true).1 = .never ∧
      s.memRead addr n = (.never, (s.busWrite s.config.devAddr [addr] true).2)) := by
  unfold State.memRead State.busWrite
  cases h : (s.device.write [addr] true).1 with
  | ok bytes =>
    obtain rfl := write_ok_bytes h
    exact .inl ⟨rfl, rfl⟩
  | fail => exact .inr (.inl ⟨rfl, rfl⟩)
  | never => exact .inr (.inr ⟨rfl, rfl⟩)

/-- A completed register read transaction returns exactly `n` bytes (R51, R52). -/
theorem memRead_ok_length {s : State} {addr : Byte} {n : Nat} {got : List Byte} (h : (s.memRead addr n).1 = .ok got) :
    got.length = n := by
  obtain ⟨_, e⟩ | ⟨_, e⟩ | ⟨_, e⟩ := memRead_cases s addr n
  · rw [e, busRead_reply] at h
    exact read_ok_length h
  · simp [e] at h
  · simp [e] at h

@[simp] theorem afterTransaction_ok (cmd : CommandWord) (bytes : List Byte) (t : State)
    (next : List Byte → State → State) : afterTransaction cmd (.ok bytes, t) next = next bytes t := rfl

@[simp] theorem afterTransaction_fail (cmd : CommandWord) (t : State) (next : List Byte → State → State) :
    afterTransaction cmd (.fail, t) next = t.takeFault cmd .transportError := rfl

@[simp] theorem afterTransaction_never (cmd : CommandWord) (t : State) (next : List Byte → State → State) :
    afterTransaction cmd (.never, t) next = t := rfl

/-- The two ways the last part of DECODE and ACQUIRE goes (R137, R138). -/
theorem finishSample_cases (s : State) (cmd : CommandWord) (rng : RangeCode) (burst : Burst) :
    (RangeSetting.ofCode rng = none ∧ s.finishSample cmd rng burst = s.takeFault cmd .rangeReserved) ∨
    ∃ r, RangeSetting.ofCode rng = some r ∧
      s.finishSample cmd rng burst =
        { s with block := s.block.storeSample burst r }.respond cmd .ok
          (packedBytes (s.block.storeSample burst r).rawPacked ++
            packedBytes (s.block.storeSample burst r).physPacked) := by
  unfold State.finishSample
  cases h : RangeSetting.ofCode rng with
  | none => exact .inl ⟨rfl, rfl⟩
  | some r => exact .inr ⟨r, rfl, rfl⟩

/-- Storing a sample makes R23's law true: one range for the three axes. -/
theorem storeSample_phys (b : Block) (burst : Burst) (r : RangeSetting) (a : Axis) :
    (b.storeSample burst r).phys a = sext16 ((b.storeSample burst r).raw a) <<< r.shift := by
  cases a <;> rfl

/-- Every primitive keeps the canonical form of the fixture's store. -/
theorem deviceWrite_wf {d : Device} (bytes : List Byte) (hold : Bool) (h : d.wf = true) :
    (d.write bytes hold).2.wf = true := by
  cases d with
  | oracle replies draws => cases replies <;> rfl
  | mock m =>
    simp only [Device.write, MockDevice.write, Device.wf] at h ⊢
    split
    · unfold MockDevice.take
      split
      · exact write_wf _ _ h
      · exact h
      · exact h
    · exact h
    · exact h

/-- Every primitive keeps the canonical form of the fixture's store. -/
theorem deviceRead_wf {d : Device} (n : Nat) (h : d.wf = true) : (d.read n).2.wf = true := by
  cases d with
  | oracle replies draws => cases replies <;> rfl
  | mock m =>
    simp only [Device.read, MockDevice.read, Device.wf] at h ⊢
    split
    · unfold MockDevice.afterRead
      split
      · exact h
      · split
        · split
          · exact write_wf _ _ h
          · exact h
        · exact h
    · exact h
    · exact h

end Sys2Proof.Laws
end

