-- ==== Sys2Proof/Laws/Exec.lean ====
section
/-! SUPPORT. What one command can do, said once: how its transactions leave the block, what it adds to the bus trace, and
the four ways it goes. Later proofs cite these instead of unfolding `exec`. -/

namespace Sys2Proof.Laws

open Sys2Proof.Machine

/-- What a register read transaction leaves alone (R52). -/
theorem memRead_frame {s t : State} {addr : Byte} {n : Nat} {r : BusReply} (h : s.memRead addr n = (r, t)) :
    t.block.sampleOf = s.block.sampleOf ∧ t.block.seq = s.block.seq ∧ t.history = s.history ∧ t.config = s.config ∧
      t.port = s.port ∧ t.host = s.host ∧ t.inputs = s.inputs ∧ t.resets = s.resets := by
  obtain ⟨_, e⟩ | ⟨_, e⟩ | ⟨_, e⟩ := memRead_cases s addr n <;>
    (rw [e] at h; cases h; simp [Block.sampleOf])

/-- A register read transaction that returns leaves the bus released (R54). -/
theorem memRead_released {s t : State} {addr : Byte} {n : Nat} {r : BusReply} (h : s.memRead addr n = (r, t))
    (hr : r ≠ .never) : t.block.busHeld = false := by
  obtain ⟨e, e'⟩ | ⟨e, e'⟩ | ⟨e, e'⟩ := memRead_cases s addr n
  · rw [e'] at h
    cases h
    cases hq : ((s.busWrite s.config.devAddr [addr] true).2.device.read n).1 <;> simp_all
  · rw [e'] at h
    cases h
    simp [e]
  · rw [e'] at h
    cases h
    simp at hr

/-- What a register read transaction adds to the bus trace: one read frame, or its address write alone (R115). -/
theorem memRead_trace {s t : State} {addr : Byte} {n : Nat} {r : BusReply} (h : s.memRead addr n = (r, t)) :
    (t.trace = s.trace ++ [.write s.config.devAddr [addr] true (.ok []), .read s.config.devAddr n r]) ∨
    ((r = .fail ∨ r = .never) ∧ t.trace = s.trace ++ [.write s.config.devAddr [addr] true r]) := by
  obtain ⟨e, e'⟩ | ⟨e, e'⟩ | ⟨e, e'⟩ := memRead_cases s addr n
  · rw [e'] at h
    cases h
    left
    simp [e]
  · rw [e'] at h
    cases h
    right
    simp [e]
  · rw [e'] at h
    cases h
    right
    simp [e]

/-- The four ways a command goes: it hangs on a primitive that never returns; it ends with a fault; it ends with OK and
leaves the sample (a transport command); it ends with OK and stores a sample (DECODE, ACQUIRE). -/
inductive Ran (s : State) (i : Instr) (t : State) : Prop
  | hung (sample : t.block.sampleOf = s.block.sampleOf) (seq : t.block.seq = .busy) (history : t.history = s.history)
  | fault (f : CommandFault) (sample : t.block.sampleOf = s.block.sampleOf) (seq : t.block.seq = .idle)
      (held : s.block.busHeld = false → t.block.busHeld = false)
      (history : t.history = s.history ++ [⟨encode i, ⟨.fault f, []⟩⟩])
  | plain (data : List Byte) (sample : t.block.sampleOf = s.block.sampleOf) (seq : t.block.seq = .idle)
      (held : t.block.busHeld = false) (history : t.history = s.history ++ [⟨encode i, ⟨.ok, data⟩⟩])
      (length : data.length = dataLength i) (notAcquire : i ≠ .acquire)
      (notDecode : ∀ rng b0 b1 b2 b3 b4 b5, i ≠ .decode rng b0 b1 b2 b3 b4 b5)
  | stored (burst : Burst) (r : RangeSetting) (sample : t.block.sampleOf = (s.block.storeSample burst r).sampleOf)
      (seq : t.block.seq = .idle) (held : s.block.busHeld = false → t.block.busHeld = false)
      (history : t.history = s.history ++
        [⟨encode i, ⟨.ok, packedBytes t.block.rawPacked ++ packedBytes t.block.physPacked⟩⟩])
      (command : i = .acquire ∨ ∃ rng b0 b1 b2 b3 b4 b5, i = .decode rng b0 b1 b2 b3 b4 b5)

/-- A command that is one register read transaction and a response (RDREG, RDBLK). -/
theorem readCommand_ran {s : State} {i : Instr} {addr : Byte} {n : Nat} (hn : n = dataLength i)
    (ha : i ≠ .acquire) (hd : ∀ rng b0 b1 b2 b3 b4 b5, i ≠ .decode rng b0 b1 b2 b3 b4 b5) :
    Ran s i (afterTransaction (encode i) (s.accept.memRead addr n) fun bytes t => t.respond (encode i) .ok bytes) := by
  rcases hm : s.accept.memRead addr n with ⟨r, u⟩
  have hf := memRead_frame hm
  cases r with
  | ok b =>
    have hl : b.length = n := memRead_ok_length (congrArg Prod.fst hm)
    have hh := memRead_released hm (by simp)
    refine .plain b ?_ ?_ ?_ ?_ (hl.trans hn) ha hd <;> simp_all [Block.sampleOf]
  | fail =>
    have hh := memRead_released hm (by simp)
    refine .fault .transportError ?_ ?_ ?_ ?_ <;> simp_all [Block.sampleOf]
  | never => refine .hung ?_ ?_ ?_ <;> simp_all [Block.sampleOf]

/-- Every command goes one of the four ways. -/
theorem exec_ran {i : Instr} {s t : State} (h : exec i s = .next t) : Ran s i t := by
  cases i with
  | wrreg a v =>
    simp only [exec, execWrreg, Host.Outcome.next.injEq] at h
    subst h
    cases hr : (s.device.write [a, v] false).1 with
    | ok b =>
      have e : s.accept.memWrite a v = (.ok b, (s.accept.memWrite a v).2) := by rw [← hr]; rfl
      rw [e]
      exact .plain [] rfl rfl (by simp [State.memWrite, hr]) (by simp [State.memWrite]) rfl (by simp) (by simp)
    | fail =>
      have e : s.accept.memWrite a v = (.fail, (s.accept.memWrite a v).2) := by rw [← hr]; rfl
      rw [e]
      exact .fault .transportError rfl rfl (by simp [State.memWrite, hr]) (by simp [State.memWrite])
    | never =>
      have e : s.accept.memWrite a v = (.never, (s.accept.memWrite a v).2) := by rw [← hr]; rfl
      rw [e]
      exact .hung rfl rfl rfl
  | rdreg a =>
    simp only [exec, execRdreg, Host.Outcome.next.injEq] at h
    exact h ▸ readCommand_ran rfl (by simp) (by simp)
  | rdblk a c =>
    simp only [exec, execRdblk, Host.Outcome.next.injEq] at h
    split at h
    · exact h ▸ .fault .illegalCommand rfl rfl (by simp) (by simp)
    · exact h ▸ readCommand_ran rfl (by simp) (by simp)
  | decode rng b0 b1 b2 b3 b4 b5 =>
    simp only [exec, execDecode, Host.Outcome.next.injEq] at h
    subst h
    obtain ⟨_, e⟩ | ⟨r, _, e⟩ :=
      finishSample_cases s.accept (encode (.decode rng b0 b1 b2 b3 b4 b5)) rng ⟨b0, b1, b2, b3, b4, b5⟩
    · rw [e]
      exact .fault .rangeReserved rfl rfl (by simp) (by simp)
    · rw [e]
      exact .stored ⟨b0, b1, b2, b3, b4, b5⟩ r rfl rfl (by simp) (by simp; rfl) (by simp)
  | acquire =>
    simp only [exec, execAcquire, Host.Outcome.next.injEq] at h
    subst h
    rcases hm : s.accept.memRead s.config.regOutXMsb 6 with ⟨r, u⟩
    have hf := memRead_frame hm
    cases r with
    | fail =>
      have hh := memRead_released hm (by simp)
      refine .fault .transportError ?_ ?_ ?_ ?_ <;> simp_all [Block.sampleOf]
    | never => refine .hung ?_ ?_ ?_ <;> simp_all [Block.sampleOf]
    | ok b =>
      rw [afterTransaction_ok]
      rcases hm' : u.memRead u.config.regXyzDataCfg 1 with ⟨r, v⟩
      have hf' := memRead_frame hm'
      cases r with
      | fail =>
        have hh := memRead_released hm' (by simp)
        refine .fault .transportError ?_ ?_ ?_ ?_ <;> simp_all [Block.sampleOf]
      | never => refine .hung ?_ ?_ ?_ <;> simp_all [Block.sampleOf]
      | ok c =>
        rw [afterTransaction_ok]
        have hh := memRead_released hm' (by simp)
        obtain ⟨_, e⟩ | ⟨r, _, e⟩ :=
          finishSample_cases v (encode .acquire) (rangeField (byteAt c 0)) (Burst.ofBytes b)
        · rw [e]
          refine .fault .rangeReserved ?_ ?_ ?_ ?_ <;> simp_all [Block.sampleOf]
        · rw [e]
          refine .stored (Burst.ofBytes b) r ?_ ?_ ?_ ?_ ?_ <;>
            simp_all [Block.sampleOf, Block.storeSample, Block.setSampleValid, Block.rawPacked, Block.physPacked]

/-- Every command completes from every state, the state after reset among them: no arm of `exec` faults or refuses. -/
theorem exec_completes (i : Instr) (s : State) : ∃ t, exec i s = .next t := by
  cases i <;> exact ⟨_, rfl⟩

/-- What a transaction and its end leave alone. -/
theorem afterTransaction_frame {s : State} {cmd : CommandWord} {r : BusReply × State} {next : List Byte → State → State}
    (hr : r.2 = { s with block := r.2.block, device := r.2.device, trace := r.2.trace, history := r.2.history })
    (hn : ∀ bytes u, u = { s with block := u.block, device := u.device, trace := u.trace, history := u.history } →
      next bytes u = { s with
        block := (next bytes u).block, device := (next bytes u).device, trace := (next bytes u).trace,
        history := (next bytes u).history }) :
    afterTransaction cmd r next = { s with
      block := (afterTransaction cmd r next).block, device := (afterTransaction cmd r next).device,
      trace := (afterTransaction cmd r next).trace, history := (afterTransaction cmd r next).history } := by
  rcases r with ⟨_ | _ | _, u⟩
  · exact hn _ u hr
  · simp only [afterTransaction]
    rw [show u = _ from hr]
    rfl
  · exact hr

/-- A register read transaction writes nothing but the block, the device and the trace. -/
theorem memRead_state {s u : State} (hu : u = { s with
      block := u.block, device := u.device, trace := u.trace, history := u.history }) (addr : Byte) (n : Nat) :
    (u.memRead addr n).2 = { s with
      block := (u.memRead addr n).2.block, device := (u.memRead addr n).2.device,
      trace := (u.memRead addr n).2.trace, history := (u.memRead addr n).2.history } := by
  obtain ⟨_, e⟩ | ⟨_, e⟩ | ⟨_, e⟩ := memRead_cases u addr n <;> (rw [e, hu]; rfl)

/-- A command writes nothing but the block, the device, the trace and the responses. -/
theorem exec_frame {i : Instr} {s t : State} (h : exec i s = .next t) :
    t = { s with block := t.block, device := t.device, trace := t.trace, history := t.history } := by
  cases i with
  | wrreg a v =>
    simp only [exec, execWrreg, Host.Outcome.next.injEq] at h
    exact h ▸ afterTransaction_frame rfl (fun _ u hu => by rw [hu]; rfl)
  | rdreg a =>
    simp only [exec, execRdreg, Host.Outcome.next.injEq] at h
    exact h ▸ afterTransaction_frame (memRead_state rfl a 1) (fun _ u hu => by rw [hu]; rfl)
  | rdblk a c =>
    simp only [exec, execRdblk, Host.Outcome.next.injEq] at h
    split at h
    · exact h ▸ rfl
    · exact h ▸ afterTransaction_frame (memRead_state rfl a c.toNat) (fun _ u hu => by rw [hu]; rfl)
  | decode rng b0 b1 b2 b3 b4 b5 =>
    simp only [exec, execDecode, Host.Outcome.next.injEq] at h
    obtain ⟨_, e⟩ | ⟨r, _, e⟩ :=
      finishSample_cases s.accept (encode (.decode rng b0 b1 b2 b3 b4 b5)) rng ⟨b0, b1, b2, b3, b4, b5⟩ <;>
      (rw [e] at h; exact h ▸ rfl)
  | acquire =>
    simp only [exec, execAcquire, Host.Outcome.next.injEq] at h
    refine h ▸ afterTransaction_frame (memRead_state rfl _ 6) (fun b u hu => ?_)
    refine afterTransaction_frame (memRead_state hu _ 1) (fun c v hv => ?_)
    obtain ⟨_, e⟩ | ⟨r, _, e⟩ :=
      finishSample_cases v (encode .acquire) (rangeField (byteAt c 0)) (Burst.ofBytes b) <;> (rw [e, hv]; rfl)

/-- Two well-framed traces one after the other are well framed: a frame never waits for the next command's. -/
theorem wellFramed_append : ∀ {l m : List BusEvent}, wellFramed l = true → wellFramed m = true → wellFramed (l ++ m) = true
  | [], _, _, hm => hm
  | .write _ [_, _] false _ :: rest, _, hl, hm => by
    simp only [wellFramed, List.cons_append] at hl ⊢
    exact wellFramed_append hl hm
  | .write dev [_] true (.ok _) :: .read dev' n _ :: rest, _, hl, hm => by
    simp only [wellFramed, List.cons_append, Bool.and_eq_true] at hl ⊢
    exact ⟨hl.1, wellFramed_append hl.2 hm⟩
  | .write _ [_] true .fail :: rest, _, hl, hm => by
    simp only [wellFramed, List.cons_append] at hl ⊢
    exact wellFramed_append hl hm
  | .write _ [_] true .never :: rest, _, hl, hm => by
    simp only [wellFramed, List.cons_append] at hl ⊢
    exact wellFramed_append hl hm
  | .write _ [_] true (.ok _) :: [], _, hl, _ => by simp [wellFramed] at hl
  | .write _ [_] true (.ok _) :: .write _ _ _ _ :: _, _, hl, _ => by simp [wellFramed] at hl
  | .write _ [] _ _ :: _, _, hl, _ => by simp [wellFramed] at hl
  | .write _ [_] false _ :: _, _, hl, _ => by simp [wellFramed] at hl
  | .write _ [_, _] true _ :: _, _, hl, _ => by simp [wellFramed] at hl
  | .write _ (_ :: _ :: _ :: _) _ _ :: _, _, hl, _ => by simp [wellFramed] at hl
  | .read _ _ _ :: _, _, hl, _ => by simp [wellFramed] at hl

/-- A reply that is awaited next and returns (R232), for a write. -/
theorem write_returns {d : Device} (h : d.returnsAt 0) (bytes : List Byte) (hold : Bool) :
    (d.write bytes hold).1 ≠ .never := by
  cases d with
  | oracle replies draws =>
    cases replies <;> simp only [Device.returnsAt, Device.write, oracleReply, writeAnswer] at h ⊢ <;> split <;> simp_all
  | mock m =>
    simp only [Device.returnsAt, Device.write, MockDevice.write, MockDevice.verdict] at h ⊢
    cases hv : m.verdicts <;> simp_all
    split <;> simp_all

/-- A reply that is awaited next and returns (R232), for a read. -/
theorem read_returns {d : Device} (h : d.returnsAt 0) (n : Nat) : (d.read n).1 ≠ .never := by
  cases d with
  | oracle replies draws =>
    cases replies <;> simp only [Device.returnsAt, Device.read, oracleReply, readAnswer] at h ⊢ <;> split <;>
      first
      | (split <;> simp)
      | simp_all
  | mock m =>
    simp only [Device.returnsAt, Device.read, MockDevice.read, MockDevice.verdict] at h ⊢
    cases hv : m.verdicts <;> simp_all
    split <;> simp_all

@[simp] theorem afterRead_verdicts (m : MockDevice) : m.afterRead.verdicts = m.verdicts := by
  unfold MockDevice.afterRead
  split
  · rfl
  · split
    · split <;> rfl
    · rfl

@[simp] theorem take_verdicts (m : MockDevice) (bytes : List Byte) (hold : Bool) :
    (m.take bytes hold).verdicts = m.verdicts := by
  unfold MockDevice.take
  split <;> rfl

/-- A primitive uses up one awaited reply (R232), for a write. -/
theorem write_shift {d : Device} {j : Nat} (h : d.returnsAt (j + 1)) (bytes : List Byte) (hold : Bool) :
    (d.write bytes hold).2.returnsAt j := by
  cases d with
  | oracle replies draws =>
    cases replies with
    | nil =>
      simp only [Device.returnsAt, Device.write, oracleReply, List.length_nil, Nat.not_lt_zero, if_false,
        Nat.sub_zero] at h ⊢
      rwa [show draws + 1 + j = draws + (j + 1) by omega]
    | cons r rest => simpa [Device.returnsAt, Device.write, oracleReply] using h
  | mock m =>
    simp only [Device.returnsAt, Device.write, MockDevice.write] at h ⊢
    split <;> simp [MockDevice.spend] <;> (cases hv : m.verdicts <;> simp_all)

/-- A primitive uses up one awaited reply (R232), for a read. -/
theorem read_shift {d : Device} {j : Nat} (h : d.returnsAt (j + 1)) (n : Nat) : (d.read n).2.returnsAt j := by
  cases d with
  | oracle replies draws =>
    cases replies with
    | nil =>
      simp only [Device.returnsAt, Device.read, oracleReply, List.length_nil, Nat.not_lt_zero, if_false,
        Nat.sub_zero] at h ⊢
      rwa [show draws + 1 + j = draws + (j + 1) by omega]
    | cons r rest => simpa [Device.returnsAt, Device.read, oracleReply] using h
  | mock m =>
    simp only [Device.returnsAt, Device.read, MockDevice.read] at h ⊢
    split <;> simp [MockDevice.spend] <;> (cases hv : m.verdicts <;> simp_all)

end Sys2Proof.Laws
end

