-- ==== Sys2Proof/Laws/PerInstr.lean ====
section
/-! SUPPORT. The per-command family EncodedOpcode: the `OP` field of a command's word is the opcode of Table 30-2. -/

namespace Sys2Proof.Laws.EncodedOpcode

/-- The word of a command carries the command's opcode in `C[63:56]`. -/
def Statement (i : Instr) : Prop := opcodeField (encode i) = i.opcode

theorem wrreg (addr value : Byte) : Statement (.wrreg addr value) := by
  apply BitVec.eq_of_toNat_eq
  simp only [opcodeField, toNat_extract_eq_div_mod, encode_wrreg_toNat, Instr.opcode, opWrreg]
  simp
  omega

theorem rdreg (addr : Byte) : Statement (.rdreg addr) := by
  apply BitVec.eq_of_toNat_eq
  simp only [opcodeField, toNat_extract_eq_div_mod, encode_rdreg_toNat, Instr.opcode, opRdreg]
  simp
  omega

theorem rdblk (addr count : Byte) : Statement (.rdblk addr count) := by
  apply BitVec.eq_of_toNat_eq
  simp only [opcodeField, toNat_extract_eq_div_mod, encode_rdblk_toNat, Instr.opcode, opRdblk]
  simp
  omega

theorem decode (rng : RangeCode) (b0 b1 b2 b3 b4 b5 : Byte) : Statement (.decode rng b0 b1 b2 b3 b4 b5) := by
  apply BitVec.eq_of_toNat_eq
  simp only [opcodeField, toNat_extract_eq_div_mod, encode_decode_toNat, Instr.opcode, opDecode]
  simp
  omega

theorem acquire : Statement .acquire := by
  unfold Statement
  decide

end Sys2Proof.Laws.EncodedOpcode
end

