-- ==== Sys2Proof/Tests/Slice0.lean ====
section
/-! SUPPORT. Tests on fixed values from 95_test_vectors.md (its vector ids stand in the comments), and for each statement
with hypotheses a concrete state that meets them. -/

namespace Sys2Proof.Tests

open Sys2Proof.Machine

/-! ## Fixtures -/

/-- A block with the sample of vector DV8. -/
def blockDV8 : Block :=
  { rawX := 1, rawY := 2, rawZ := 4, physX := 1, physY := 2, physZ := 4, sampleValid := true, seq := .idle,
    busHeld := false }

/-- A state of the gk profile around a device. -/
def stateOn (device : Device) : State :=
  { block := blockDV8, config := gkConfig, port := none, device := device, trace := [], history := [],
    host := { drv := .uninitialized, job := none, results := [] }, inputs := [], resets := 0 }

/-- A MockDevice with this store. -/
def mockOf (mem : Memory) : MockDevice := { mem := mem, pointer := 0, log := [], verdicts := [], selfClear := none }

/-- The device bytes of vector A1. -/
def storeA1 : Memory := [(0x01, 0x10), (0x03, 0x20), (0x05, 0x30), (0x0E, 0x01)]

/-- The state in a run, for tests. -/
def nextOf (o : Host.Outcome State Fault Refusal) (other : State) : State :=
  match o with
  | .next t => t
  | .fault _ => other
  | .refused _ => other

/-- A state after one command. -/
def afterCommand (i : Instr) (s : State) : State := nextOf (exec i s) s

/-! ## Encoding -/

-- E1, E4, E5, E8, E10, bit by bit from Table 30-1.
theorem test_decode_wrreg :
    decode (0b00000001_00101010_0000000000000000000000000000000000000000_00000100 : CommandWord) =
      .ok (.wrreg 0x2A 0x04) := by decide
theorem test_decode_rdreg :
    decode (0b00000010_00001110_000000000000000000000000000000000000000000000000 : CommandWord) =
      .ok (.rdreg 0x0E) := by decide
theorem test_decode_rdblk :
    decode (0b00000011_00000001_0000000000000000000000000000000000000000_00000110 : CommandWord) =
      .ok (.rdblk 0x01 0x06) := by decide
theorem test_decode_decode :
    decode (0b00010000_000000_01_00010000_00000000_00100000_00000000_00110000_00000000 : CommandWord) =
      .ok (.decode 1 0x10 0x00 0x20 0x00 0x30 0x00) := by decide
theorem test_decode_acquire :
    decode (0b00010001_00000000000000000000000000000000000000000000000000000000 : CommandWord) = .ok .acquire := by
  decide

-- Table 30-4.
theorem test_encode_words :
    encode (.wrreg 0x2A 0x04) = 0x012A000000000004 ∧ encode (.rdreg 0x0E) = 0x020E000000000000 ∧
    encode (.rdblk 0x01 0xFF) = 0x03010000000000FF ∧
    encode (.decode 2 0x12 0x34 0xAB 0xCD 0x00 0x03) = 0x10021234ABCD0003 ∧ encode .acquire = 0x1100000000000000 := by
  decide

-- X1, X2, X3, X12: opcodes not assigned.
theorem test_illegal_opcodes :
    decode 0x0000000000000000 = .error .unknownOpcode ∧ decode 0x0400000000000000 = .error .unknownOpcode ∧
    decode 0xFF00000000000000 = .error .unknownOpcode ∧ decode 0x0F00000000000000 = .error .unknownOpcode ∧
    decode 0x1200000000000000 = .error .unknownOpcode := by decide
-- X4 to X11: must-be-zero bits and count zero.
theorem test_illegal_fields :
    decode 0x012A000000000104 = .error .transportPayload ∧ decode 0x022A000000000001 = .error .readPayload ∧
    decode 0x0301000000000000 = .error .countZero ∧ decode 0x0301000000000106 = .error .transportPayload ∧
    decode 0x1004000000000000 = .error .decodePadding ∧ decode 0x10FF000000000000 = .error .decodePadding ∧
    decode 0x1100000000000001 = .error .acquirePadding ∧ decode 0x1101000000000000 = .error .acquirePadding := by decide

/-- R83: an ill-formed term, a block read of no bytes, is refused; the other forms are accepted. -/
theorem test_wellFormed_refuses_count_zero : (Instr.rdblk 0x01 0x00).wellFormed = false := by decide
theorem test_wellFormed_accepts_the_reserved_range : (Instr.decode 3 0 0 0 0 0 0).wellFormed = true := by decide

-- R85: no word selects two rows but through the opcode.
theorem test_rows_are_disjoint :
    opcodeRows.Pairwise fun a b => a.pattern &&& a.mask &&& b.mask ≠ b.pattern &&& a.mask &&& b.mask := by decide

theorem test_table_word : decodeTableWord 64 0x0301000000000006 = some (.rdblk 0x01 0x06) := by decide

/-- The very next step after reset runs the word presented. -/
theorem test_step_runs_the_first_word :
    step (State.reset.withFetchWord 64 0x1001100020003000) =
      exec (.decode 1 0x10 0x00 0x20 0x00 0x30 0x00) State.reset := rfl

/-! ## The pipeline (UP4, UP7, UP14, UP18, SC5, SC6, K2) -/

theorem test_unpack :
    unpack14bSigned 0xFF 0xFC = 0x3FFF ∧ unpack14bSigned 0x80 0x00 = 0x2000 ∧ unpack14bSigned 0x01 0x00 = 0x0040 ∧
    unpack14bSigned 0xAB 0xCD = 0x2AF3 ∧ (unpack14bSigned 0xFF 0xFC).toInt = -1 := by decide
theorem test_scale :
    applyScaleFactor 0x1FFF .g8 = 0x7FFC ∧ applyScaleFactor 0x2000 .g8 = 0x8000 ∧ applyScaleFactor 0x3FFF .g4 = 0xFFFE ∧
    applyScaleFactor 0x0400 .g4 = 0x0800 := by decide
theorem test_pack : packXyz 0xFFFF 0xE000 0x1FFF = 0xFFFFE0001FFF := by decide

/-! ## Commands -/

-- T1
theorem test_wrreg_trace :
    (afterCommand (.wrreg 0x2A 0x04) (stateOn (.mock (mockOf [])))).trace = [.write 0x1D [0x2A, 0x04] false (.ok [])] ∧
    (afterCommand (.wrreg 0x2A 0x04) (stateOn (.mock (mockOf [])))).device =
      .mock { mockOf [(0x2A, 0x04)] with log := [(0x2A, 0x04)] } := by decide
-- T7
theorem test_wrreg_fails :
    (afterCommand (.wrreg 0x2A 0x04) (stateOn (.oracle [.fail] 0))).history =
      [⟨0x012A000000000004, ⟨.fault .transportError, []⟩⟩] := by decide
-- T2 with mem[0x0E] = 0x01, the example of R111
theorem test_rdreg_byte :
    (afterCommand (.rdreg 0x0E) (stateOn (.mock (mockOf storeA1)))).history = [⟨0x020E000000000000, ⟨.ok, [0x01]⟩⟩] := by
  decide
-- T8
theorem test_rdreg_select_fails :
    (afterCommand (.rdreg 0x0E) (stateOn (.oracle [.fail] 0))).trace = [.write 0x1D [0x0E] true .fail] ∧
    (afterCommand (.rdreg 0x0E) (stateOn (.oracle [.fail] 0))).block = blockDV8 := by decide
-- The example of R112
theorem test_rdblk_burst :
    (afterCommand (.rdblk 0x01 0x06) (stateOn (.mock (mockOf storeA1)))).history =
      [⟨0x0301000000000006, ⟨.ok, [0x10, 0x00, 0x20, 0x00, 0x30, 0x00]⟩⟩] := by decide
-- T5, on a store with mem[a] = a where it matters
theorem test_rdblk_wraps_in_the_fixture :
    (afterCommand (.rdblk 0xFE 0x04) (stateOn (.mock (mockOf [(0x01, 0x01), (0xFE, 0xFE), (0xFF, 0xFF)])))).history =
      [⟨0x03FE000000000004, ⟨.ok, [0xFE, 0xFF, 0x00, 0x01]⟩⟩] := by decide
-- DV2
theorem test_decode_sample :
    (afterCommand (.decode 0 0xFF 0xFC 0x80 0x00 0x7F 0xFF) (stateOn (.oracle [] 0))).block =
      { rawX := 0x3FFF, rawY := 0x2000, rawZ := 0x1FFF, physX := 0xFFFF, physY := 0xE000, physZ := 0x1FFF,
        sampleValid := true, seq := .idle, busHeld := false } := by decide
-- DV4
theorem test_decode_response :
    (afterCommand (.decode 2 0x12 0x34 0xAB 0xCD 0x00 0x03) (stateOn (.oracle [] 0))).history =
      [⟨0x10021234ABCD0003,
        ⟨.ok, [0x04, 0x8D, 0xEA, 0xF3, 0x00, 0x00, 0x12, 0x34, 0xAB, 0xCC, 0x00, 0x00]⟩⟩] := by decide
-- A1
theorem test_acquire_response :
    (afterCommand .acquire (stateOn (.mock (mockOf storeA1)))).history =
      [⟨0x1100000000000000,
        ⟨.ok, [0x04, 0x00, 0x08, 0x00, 0x0C, 0x00, 0x08, 0x00, 0x10, 0x00, 0x18, 0x00]⟩⟩] := by decide
-- A5: all or nothing
theorem test_acquire_range_read_fails :
    (afterCommand .acquire (stateOn (.oracle [.ok [], .ok [0x10, 0x00, 0x20, 0x00, 0x30, 0x00], .fail] 0))).block =
      blockDV8 := by decide

/-- A command whose read never returns leaves the block busy with the bus held (log 5). -/
theorem test_hung_read :
    (afterCommand (.rdreg 0x0E) (stateOn (.oracle [.ok [], .never] 0))).block =
      { blockDV8 with seq := .busy, busHeld := true } := by decide

-- The self-clearing variant of P5: the last counted read answers the stored byte and then clears the mask.
theorem test_self_clear :
    (Device.read 1 (.mock { mockOf [(0x2B, 0x40)] with pointer := 0x2B, selfClear := some ⟨0x2B, 0x40, 1⟩ })) =
      (.ok [0x40], .mock { mockOf [] with pointer := 0x2B }) := by decide

theorem test_gk_profile_meets_the_constraints : configWf gkConfig = true := by decide

/-! ## Witnesses: states that meet the hypotheses of the statements -/

/-- A fixture state with a word on its port. -/
def presenting (c : CommandWord) : State := { stateOn (.mock (mockOf storeA1)) with port := some c }

theorem witness_DecodeOfEncodeIsTheCommand : (Instr.rdblk 0xFF 0xFF).wellFormed = true := by decide
theorem witness_EncodeOfDecodeIsTheWord : decode 0x0301000000000001 = .ok (.rdblk 0x01 0x01) := by decide
theorem witness_DecoderAgreesWithTheOpcodeRows :
    ∃ row ∈ opcodeRows, row.selects 0x0301000000000001 = true ∧ row.selects 0x0301000000000000 = false := by decide
theorem witness_IllegalWords :
    (presenting 0x0301000000000000).block.seq = .idle ∧ (presenting 0x0301000000000000).port = some 0x0301000000000000 ∧
    illegalWord 0x0301000000000000 := ⟨rfl, rfl, by unfold illegalWord; decide⟩
theorem witness_IllegalWord_unknownOp : illegalWord 0x0000000000000000 := by unfold illegalWord; decide
theorem witness_IllegalWord_wrregBits : illegalWord 0x012A000000000104 := by unfold illegalWord; decide
theorem witness_IllegalWord_rdregBits : illegalWord 0x022A000000000001 := by unfold illegalWord; decide
theorem witness_IllegalWord_decodeBits : illegalWord 0x10FF000000000000 := by unfold illegalWord; decide
theorem witness_IllegalWord_acquireBits : illegalWord 0x1101000000000000 := by unfold illegalWord; decide
theorem witness_LegalWord : ¬ illegalWord 0x1003000000000000 := by
  unfold illegalWord
  decide
theorem witness_IllegalCommandComesBeforeRangeReserved :
    (presenting 0x10FF000000000000).block.seq = .idle ∧ (presenting 0x10FF000000000000).port = some 0x10FF000000000000 ∧
    (0x10FF000000000000 : CommandWord).extractLsb' 56 8 = (0x10 : Byte) ∧
    (0x10FF000000000000 : CommandWord).extractLsb' 50 6 ≠ (0 : BitVec 6) ∧
    (0x10FF000000000000 : CommandWord).extractLsb' 48 2 = (3 : RangeCode) := by decide
theorem witness_StepRunsTheDecodedCommand :
    (presenting 0x1100000000000000).block.seq = .idle ∧
    (presenting 0x1100000000000000).port = some 0x1100000000000000 ∧ decode 0x1100000000000000 = .ok .acquire := by decide
theorem witness_IdleAndBusyStepsKeepTheState :
    (stateOn (.oracle [] 0)).hostFree ∧ (stateOn (.oracle [] 0)).inputs = [] ∧
    ∃ s : State, s.block.seq = .busy ∧ s.inputs.head? = some .reset :=
  ⟨⟨rfl, rfl, rfl⟩, rfl,
    { stateOn (.oracle [] 0) with block := { blockDV8 with seq := .busy }, inputs := [.reset] }, rfl, rfl⟩

theorem witness_ReservedRangeWord :
    (presenting 0x1003000000000000).port = some 0x1003000000000000 ∧
    (0x1003000000000000 : CommandWord).extractLsb' 56 8 = (0x10 : Byte) ∧
    (0x1003000000000000 : CommandWord).extractLsb' 50 6 = (0 : BitVec 6) ∧
    (0x1003000000000000 : CommandWord).extractLsb' 48 2 = (3 : RangeCode) := by decide

/-- Words for the operand and the illegal clause of each command's statement. -/
theorem witness_WrregWords :
    (presenting 0x01FF0000000000FF).port = some 0x01FF0000000000FF ∧
    (0x01FF0000000000FF : CommandWord).extractLsb' 56 8 = (0x01 : Byte) ∧
    (0x01FF0000000000FF : CommandWord).extractLsb' 8 40 = (0 : BitVec 40) ∧
    (0x01FF8000000000FF : CommandWord).extractLsb' 56 8 = (0x01 : Byte) ∧
    (0x01FF8000000000FF : CommandWord).extractLsb' 8 40 ≠ (0 : BitVec 40) := by decide
theorem witness_RdregWords :
    (0x02FF000000000000 : CommandWord).extractLsb' 56 8 = (0x02 : Byte) ∧
    (0x02FF000000000000 : CommandWord).extractLsb' 0 48 = (0 : BitVec 48) ∧
    (0x02FF800000000000 : CommandWord).extractLsb' 56 8 = (0x02 : Byte) ∧
    (0x02FF800000000000 : CommandWord).extractLsb' 0 48 ≠ (0 : BitVec 48) := by decide
theorem witness_RdblkWords :
    (0x03FF000000000001 : CommandWord).extractLsb' 56 8 = (0x03 : Byte) ∧
    (0x03FF000000000001 : CommandWord).extractLsb' 8 40 = (0 : BitVec 40) ∧
    (0x03FF000000000001 : CommandWord).extractLsb' 0 8 ≠ (0 : Byte) ∧
    (0x03FF000000000000 : CommandWord).extractLsb' 56 8 = (0x03 : Byte) ∧
    (0x03FF000000000000 : CommandWord).extractLsb' 0 8 = (0 : Byte) ∧
    (0x03FF000000000101 : CommandWord).extractLsb' 8 40 ≠ (0 : BitVec 40) := by decide
theorem witness_DecodeWords :
    (0x1003FFFFFFFFFFFF : CommandWord).extractLsb' 56 8 = (0x10 : Byte) ∧
    (0x1003FFFFFFFFFFFF : CommandWord).extractLsb' 50 6 = (0 : BitVec 6) ∧
    (0x1004000000000000 : CommandWord).extractLsb' 56 8 = (0x10 : Byte) ∧
    (0x1004000000000000 : CommandWord).extractLsb' 50 6 ≠ (0 : BitVec 6) := by decide
theorem witness_AcquireWords :
    (0x1100000000000000 : CommandWord).extractLsb' 56 8 = (0x11 : Byte) ∧
    (0x1100000000000000 : CommandWord).extractLsb' 0 56 = (0 : BitVec 56) ∧
    (0x1180000000000000 : CommandWord).extractLsb' 56 8 = (0x11 : Byte) ∧
    (0x1180000000000000 : CommandWord).extractLsb' 0 56 ≠ (0 : BitVec 56) := by decide

/-- Replies of a completed read of one byte. -/
theorem witness_RdregReadsOneByte :
    Device.write [0x0E] true (.mock (mockOf storeA1)) = (.ok [], .mock { mockOf storeA1 with pointer := 0x0E }) ∧
    Device.read 1 (.mock { mockOf storeA1 with pointer := 0x0E }) =
      (.ok [0x01], .mock { mockOf storeA1 with pointer := 0x0E }) := by decide
theorem witness_WrregWritesOneRegister :
    Device.write [0x2A, 0x04] false (.oracle [.ok []] 0) = (.ok [], .oracle [] 0) := by decide
theorem witness_RdblkReadsABurst :
    (0x02 : Byte) ≠ 0 ∧ Device.write [0xFF] true (.oracle [.ok [], .ok [0xAA, 0x55]] 0) =
      (.ok [], .oracle [.ok [0xAA, 0x55]] 0) ∧
    Device.read (0x02 : Byte).toNat (.oracle [.ok [0xAA, 0x55]] 0) = (.ok [0xAA, 0x55], .oracle [] 0) := by decide
theorem witness_RdblkOfOneIsRdreg :
    (∃ t, exec (.rdblk 0x01 1) (stateOn (.mock (mockOf storeA1))) = .next t) ∧
    ∃ u, exec (.rdreg 0x01) (stateOn (.mock (mockOf storeA1))) = .next u := ⟨⟨_, rfl⟩, ⟨_, rfl⟩⟩
theorem witness_FailedPrimitive :
    Device.write [0x2A, 0x04] false (.oracle [.fail] 0) = (.fail, .oracle [] 0) ∧
    Device.write [0x2A] true (.oracle [.fail] 0) = (.fail, .oracle [] 0) ∧
    Device.write [0x2A] true (.oracle [.ok [], .fail] 0) = (.ok [], .oracle [.fail] 0) ∧
    Device.read 1 (.oracle [.fail] 0) = (.fail, .oracle [] 0) ∧ (0x06 : Byte) ≠ 0 ∧
    Device.read (0x06 : Byte).toNat (.oracle [.fail] 0) = (.fail, .oracle [] 0) := by decide
theorem witness_fairness_and_rest :
    (stateOn (.mock (mockOf storeA1))).busReturns ∧ (stateOn (.mock (mockOf storeA1))).block.atRest :=
  ⟨fun j _ => by simp [stateOn, mockOf, Device.returnsAt], rfl, rfl⟩
theorem witness_fairness_of_the_oracle : (stateOn (.oracle [.ok [], .fail, .ok [], .fail] 0)).busReturns := by
  intro j hj
  obtain rfl | rfl | rfl | rfl : j = 0 ∨ j = 1 ∨ j = 2 ∨ j = 3 := by omega
  all_goals simp [stateOn, Device.returnsAt]
theorem witness_TransportCommandsKeepTheBlock :
    (∀ rng b0 b1 b2 b3 b4 b5, Instr.wrreg 0 0 ≠ .decode rng b0 b1 b2 b3 b4 b5) ∧ Instr.wrreg 0 0 ≠ .acquire ∧
    ∃ t, exec (.wrreg 0 0) (stateOn (.mock (mockOf storeA1))) = .next t :=
  ⟨by simp, by simp, ⟨_, rfl⟩⟩
theorem witness_OneTransaction :
    (∃ t, exec (.wrreg 0x2A 0x04) (stateOn (.oracle [.fail] 0)) = .next t) ∧
    (∃ t, exec (.rdblk 0x01 0xFF) (stateOn (.oracle [.ok [], .fail] 0)) = .next t) ∧ (0xFF : Byte) ≠ 0 ∧
    ∃ t, exec (.rdblk 0x01 0) (stateOn (.oracle [] 0)) = .next t := ⟨⟨_, rfl⟩, ⟨_, rfl⟩, by decide, ⟨_, rfl⟩⟩
theorem witness_NeverReturns :
    Device.write [0x2A, 0x04] false (.oracle [.never] 0) = (.never, .oracle [] 0) ∧
    Device.write [gkConfig.regOutXMsb] true (.oracle [.never] 0) = (.never, .oracle [] 0) ∧
    Device.write [gkConfig.regOutXMsb] true (.oracle [.ok [], .never] 0) = (.ok [], .oracle [.never] 0) ∧
    Device.read 6 (.oracle [.never] 0) = (.never, .oracle [] 0) ∧
    Device.read 6 (.oracle [.ok [1, 2, 3, 4, 5, 6], .never] 0) = (.ok [1, 2, 3, 4, 5, 6], .oracle [.never] 0) ∧
    Device.write [gkConfig.regXyzDataCfg] true (.oracle [.never] 0) = (.never, .oracle [] 0) ∧
    Device.write [gkConfig.regXyzDataCfg] true (.oracle [.ok [], .never] 0) = (.ok [], .oracle [.never] 0) ∧
    Device.read 1 (.oracle [.never] 0) = (.never, .oracle [] 0) := by decide
-- The second address write of ACQUIRE never returns: the bus was released by the first read (R28, log 5).
theorem test_hung_second_transaction :
    (afterCommand .acquire (stateOn (.oracle [.ok [], .ok [1, 2, 3, 4, 5, 6], .never] 0))).block =
      { blockDV8 with seq := .busy, busHeld := false } := by decide
theorem witness_UnpackIsTheArithmeticShift :
    (0xFC : Byte).extractLsb' 2 6 = (0xFF : Byte).extractLsb' 2 6 ∧ (0xFC : Byte) ≠ 0xFF := by decide
theorem witness_ArithmeticLawsOfThePipeline :
    unpack14bSigned 0x80 0x03 = 0x2000 ∧ applyScaleFactor 0x2000 .g8 = 0x8000 ∧ RangeSetting.code .g8 = 2 ∧
    1 < RangeSetting.shift .g8 := by decide
theorem witness_ScalingIsExactDivision : RangeSetting.ofCode 2 = some .g8 ∧ RangeSetting.ofCode 0 = some .g2 := by decide
theorem witness_PackedLanesKeepBusOrder : ((0xFF : Byte) ++ (0xFC : Byte) : Lane).sshiftRight 2 = 0xFFFF := by decide
theorem witness_SamplePorts :
    blockDV8.sampleValid = true ∧ ({ blockDV8 with sampleValid := false } : Block).sampleValid = false := by decide
theorem witness_DecodeStoresTheSample : RangeSetting.ofCode 2 = some .g8 := by decide
theorem witness_DecodeIsIdempotent :
    (∃ t, exec (.decode 1 0xFF 0xFC 0 0 0 0) (stateOn (.oracle [] 0)) = .next t ∧
      ∃ u, exec (.decode 1 0xFF 0xFC 0 0 0 0) t = .next u) ∧
    ∃ u, exec (.decode 1 0xFF 0xFF 0 3 0 3) (stateOn (.oracle [] 0)) = .next u := ⟨⟨_, rfl, _, rfl⟩, _, rfl⟩

/-- The four replies of an acquisition at the range byte `c`. -/
def acquireReplies (c : Byte) : List BusReply :=
  [.ok [], .ok [0x10, 0x00, 0x20, 0x00, 0x30, 0x00], .ok [], .ok [c]]

theorem witness_Acquire (c : Byte) :
    Device.write [gkConfig.regOutXMsb] true (.oracle (acquireReplies c) 0) =
      (.ok [], .oracle ((acquireReplies c).drop 1) 0) ∧
    Device.read 6 (.oracle ((acquireReplies c).drop 1) 0) =
      (.ok [0x10, 0x00, 0x20, 0x00, 0x30, 0x00], .oracle ((acquireReplies c).drop 2) 0) ∧
    Device.write [gkConfig.regXyzDataCfg] true (.oracle ((acquireReplies c).drop 2) 0) =
      (.ok [], .oracle ((acquireReplies c).drop 3) 0) ∧
    Device.read 1 (.oracle ((acquireReplies c).drop 3) 0) = (.ok [c], .oracle [] 0) := ⟨rfl, rfl, rfl, rfl⟩
theorem witness_Acquire_ranges :
    RangeSetting.ofCode ((0xFE : Byte).extractLsb' 0 2) = some .g8 ∧ (0x03 : Byte).extractLsb' 0 2 = (3 : RangeCode) := by
  decide
theorem witness_Acquire_failures :
    Device.read 6 (.oracle [.fail] 0) = (.fail, .oracle [] 0) ∧
    Device.write [gkConfig.regXyzDataCfg] true (.oracle [.fail] 0) = (.fail, .oracle [] 0) ∧
    Device.read 1 (.oracle [.fail] 0) = (.fail, .oracle [] 0) := by decide
theorem witness_SampleResponse :
    (afterCommand .acquire (stateOn (.mock (mockOf storeA1)))).history =
      (stateOn (.mock (mockOf storeA1))).history ++
        [⟨encode .acquire, ⟨.ok, [0x04, 0x00, 0x08, 0x00, 0x0C, 0x00, 0x08, 0x00, 0x10, 0x00, 0x18, 0x00]⟩⟩] := by decide
theorem witness_AcquireIsBurstThenRangeThenDecode :
    (afterCommand (.rdblk gkConfig.regOutXMsb 6) (stateOn (.mock (mockOf storeA1)))).history =
      [⟨encode (.rdblk gkConfig.regOutXMsb 6), ⟨.ok, [0x10, 0x00, 0x20, 0x00, 0x30, 0x00]⟩⟩] ∧
    (afterCommand (.rdreg gkConfig.regXyzDataCfg)
      (afterCommand (.rdblk gkConfig.regOutXMsb 6) (stateOn (.mock (mockOf storeA1))))).history =
      (afterCommand (.rdblk gkConfig.regOutXMsb 6) (stateOn (.mock (mockOf storeA1)))).history ++
        [⟨encode (.rdreg gkConfig.regXyzDataCfg), ⟨.ok, [0x01]⟩⟩] := by decide
theorem witness_AcquireRunsInParts_fail :
    (afterCommand (.rdblk gkConfig.regOutXMsb 6) (stateOn (.oracle [.fail, .fail] 0))).history =
      [⟨encode (.rdblk gkConfig.regOutXMsb 6), ⟨.fault .transportError, []⟩⟩] ∧
    (afterCommand (.rdreg gkConfig.regXyzDataCfg)
      (afterCommand (.rdblk gkConfig.regOutXMsb 6) (stateOn (.oracle [.ok [], .ok [1, 2, 3, 4, 5, 6], .fail] 0)))).history =
      (afterCommand (.rdblk gkConfig.regOutXMsb 6) (stateOn (.oracle [.ok [], .ok [1, 2, 3, 4, 5, 6], .fail] 0))).history ++
        [⟨encode (.rdreg gkConfig.regXyzDataCfg), ⟨.fault .transportError, []⟩⟩] := by decide
theorem witness_AcquireRunsInParts_never :
    (afterCommand (.rdblk gkConfig.regOutXMsb 6) (stateOn (.oracle [.never, .never] 0))).block.seq = .busy ∧
    (afterCommand (.rdreg gkConfig.regXyzDataCfg)
      (afterCommand (.rdblk gkConfig.regOutXMsb 6)
        (stateOn (.oracle [.ok [], .ok [1, 2, 3, 4, 5, 6], .never] 0)))).block.seq = .busy := by decide
theorem witness_AFaultOfAWord :
    step { presenting 0x0000000000000000 with device := .oracle [] 0 } =
      .next { stateOn (.oracle [] 0) with history := [⟨0x0000000000000000, ⟨.fault .illegalCommand, []⟩⟩] } ∧
    step { presenting 0x020E000000000000 with device := .oracle [.fail] 0 } =
      .next { stateOn (.oracle [] 0) with
        trace := [.write 0x1D [0x0E] true .fail]
        history := [⟨0x020E000000000000, ⟨.fault .transportError, []⟩⟩] } ∧
    step { presenting 0x1003000000000000 with device := .oracle [] 0 } =
      .next { stateOn (.oracle [] 0) with history := [⟨0x1003000000000000, ⟨.fault .rangeReserved, []⟩⟩] } := ⟨rfl, rfl, rfl⟩
theorem witness_AFaultChangesNoState :
    (afterCommand (.decode 3 0 0 0 0 0 0) (stateOn (.oracle [] 0))).history =
      (stateOn (.oracle [] 0)).history ++ [⟨encode (.decode 3 0 0 0 0 0 0), ⟨.fault .rangeReserved, []⟩⟩] ∧
    (stateOn (.oracle [] 0)).block.busHeld = false := by decide
theorem witness_EveryAcceptedWord :
    (presenting 0x1100000000000000).block.seq = .idle ∧ (presenting 0x1100000000000000).port = some 0x1100000000000000 ∧
    (presenting 0x1100000000000000).busReturns :=
  ⟨rfl, rfl, fun j _ => by simp [presenting, stateOn, mockOf, Device.returnsAt]⟩
theorem witness_TransactionsReturn :
    ((stateOn (.oracle [.fail] 0)).memWrite 0x2A 0x04).1 ≠ .never ∧
    ((stateOn (.oracle [.ok []] 0)).busWrite 0x1D [0x0E] true).1 = .ok [] ∧
    ((stateOn (.oracle [.ok [], .fail] 0)).memRead 0x0E 1).1 ≠ .never := by decide
theorem witness_AnEndedCommand :
    (stateOn (.mock (mockOf storeA1))).block.busHeld = false ∧
    (afterCommand (.rdreg 0x0E) (stateOn (.mock (mockOf storeA1)))).block.seq = .idle := by decide
theorem witness_CommandsDoNotReadTheOldSample :
    (∃ t, exec .acquire (stateOn (.mock (mockOf storeA1))) = .next t) ∧
    ∃ u, exec .acquire { stateOn (.mock (mockOf storeA1)) with block := { blockDV8 with rawX := 7 } } = .next u :=
  ⟨⟨_, rfl⟩, ⟨_, rfl⟩⟩

/-- The invariant holds at a state with a sample, and a step runs there. -/
theorem witness_Invariant : Inv (presenting 0x1100000000000000) ∧ ∃ t, step (presenting 0x1100000000000000) = .next t :=
  ⟨{ released := fun _ => rfl
     sample := fun _ => ⟨.g2, fun a => by cases a <;> decide⟩
     framed := rfl
     addressed := fun e h => by simp [presenting, stateOn] at h
     shaped := fun x h => by simp [presenting, stateOn] at h
     store := by decide }, _, rfl⟩
theorem witness_SampleValid :
    (afterCommand .acquire (stateOn (.mock (mockOf storeA1)))).block.sampleValid = true ∧
    (stateOn (.oracle [] 0)).block.sampleValid = true ∧
    step { stateOn (.oracle [] 0) with inputs := [.reset] } =
      .next { stateOn (.oracle [] 0) with block := Block.afterReset 1, resets := 1 } := ⟨by decide, rfl, rfl⟩
theorem witness_SampleChanges :
    blockDV8.sampleValid = true ∧ step (presenting 0x1100000000000000) =
      .next (nextOf (step (presenting 0x1100000000000000)) State.reset) ∧
    (nextOf (step (presenting 0x1100000000000000)) State.reset).block.sampleOf ≠ blockDV8.sampleOf :=
  ⟨rfl, rfl, by decide⟩
theorem witness_ResetInput :
    State.hostFree { stateOn (.oracle [] 0) with inputs := [.reset] } ∧
    ({ stateOn (.oracle [] 0) with inputs := [.reset] } : State).inputs = .reset :: [] := ⟨⟨rfl, rfl, rfl⟩, rfl⟩
theorem witness_Mock :
    (stateOn (.mock (mockOf storeA1))).device = .mock (mockOf storeA1) ∧ (mockOf storeA1).verdicts = [] ∧
    (mockOf storeA1).selfClear = none ∧ Memory.wf (mockOf storeA1).mem = true ∧
    gkConfig.regCtrl1 ≠ gkConfig.regXyzDataCfg := by decide
theorem witness_OtherCommandsStoreNothing :
    (∀ addr value, Instr.rdreg 0x0E ≠ .wrreg addr value) ∧
    ∃ t, exec (.rdreg 0x0E) (stateOn (.mock (mockOf storeA1))) = .next t := ⟨by simp, _, rfl⟩

/-- A fixture state whose host is about to call procedures. -/
def calling (inputs : List Input) (device : Device) : State := { stateOn device with inputs := inputs }

theorem witness_Queries (c : Byte) :
    (calling [.call .getOrientation] (.oracle [.ok [], .ok [c]] 0)).hostFree ∧
    (Procedure.getOrientation, gkConfig.regPlStatus, c &&& 0x07) ∈
      [(Procedure.getRange, gkConfig.regXyzDataCfg, c &&& 0x03),
       (Procedure.getDataRate, gkConfig.regCtrl1, (c.extractLsb' 3 3).setWidth 8),
       (Procedure.getOrientation, gkConfig.regPlStatus, c &&& 0x07)] ∧
    Device.write [gkConfig.regPlStatus] true (.oracle [.ok [], .ok [c]] 0) = (.ok [], .oracle [.ok [c]] 0) ∧
    Device.read 1 (.oracle [.ok [c]] 0) = (.ok [c], .oracle [] 0) := ⟨⟨rfl, rfl, rfl⟩, by simp, rfl, rfl⟩
theorem witness_SetRangeWrites :
    (calling [.call (.setRange .g8)] (.oracle [.ok [], .ok [0x05], .ok [], .ok [], .ok []] 0)).hostFree ∧
    Device.write [gkConfig.regCtrl1] true (.oracle [.ok [], .ok [0x05], .ok [], .ok [], .ok []] 0) =
      (.ok [], .oracle [.ok [0x05], .ok [], .ok [], .ok []] 0) ∧
    Device.read 1 (.oracle [.ok [0x05], .ok [], .ok [], .ok []] 0) = (.ok [0x05], .oracle [.ok [], .ok [], .ok []] 0) ∧
    Device.write [gkConfig.regCtrl1, (0x05 : Byte) &&& 0xFE] false (.oracle [.ok [], .ok [], .ok []] 0) =
      (.ok [], .oracle [.ok [], .ok []] 0) ∧
    Device.write [gkConfig.regXyzDataCfg, RangeSetting.g8.code.setWidth 8] false (.oracle [.ok [], .ok []] 0) =
      (.ok [], .oracle [.ok []] 0) ∧
    Device.write [gkConfig.regCtrl1, 0x05] false (.oracle [.ok []] 0) = (.ok [], .oracle [] 0) :=
  ⟨⟨rfl, rfl, rfl⟩, rfl, rfl, rfl, rfl, rfl⟩
theorem witness_SetDataRateWrites :
    (calling [.call (.setDataRate 3)] (.oracle [.ok [], .ok [0x05], .ok [], .ok [], .ok []] 0)).hostFree ∧
    (0x1C : Byte) = ((0x05 : Byte) &&& 0xC6) ||| ((3 : RateCode).setWidth 8 <<< 3) ∧
    Device.write [gkConfig.regCtrl1] true (.oracle [.ok [], .ok [0x05], .ok [], .ok [], .ok []] 0) =
      (.ok [], .oracle [.ok [0x05], .ok [], .ok [], .ok []] 0) ∧
    Device.read 1 (.oracle [.ok [0x05], .ok [], .ok [], .ok []] 0) = (.ok [0x05], .oracle [.ok [], .ok [], .ok []] 0) ∧
    Device.write [gkConfig.regCtrl1, (0x05 : Byte) &&& 0xFE] false (.oracle [.ok [], .ok [], .ok []] 0) =
      (.ok [], .oracle [.ok [], .ok []] 0) ∧
    Device.write [gkConfig.regCtrl1, 0x1C] false (.oracle [.ok [], .ok []] 0) = (.ok [], .oracle [.ok []] 0) ∧
    Device.write [gkConfig.regCtrl1, (0x1C : Byte) ||| (0x05 &&& 0x01)] false (.oracle [.ok []] 0) =
      (.ok [], .oracle [] 0) :=
  ⟨⟨rfl, rfl, rfl⟩, by decide, rfl, rfl, rfl, rfl, rfl⟩
theorem witness_IdentityMismatch :
    (calling [.call .initialise] (.oracle [.ok [], .ok [0x2A]] 0)).hostFree ∧
    Device.write [gkConfig.regWhoAmI] true (.oracle [.ok [], .ok [0x2A]] 0) = (.ok [], .oracle [.ok [0x2A]] 0) ∧
    Device.read 1 (.oracle [.ok [0x2A]] 0) = (.ok [0x2A], .oracle [] 0) ∧ (0x2A : Byte) ≠ gkConfig.deviceId :=
  ⟨⟨rfl, rfl, rfl⟩, rfl, rfl, by decide⟩

/-- A fixture state whose host waits in a procedure with its response there. -/
def waiting (job : Job) (response : Response) : State :=
  { stateOn (.oracle [] 0) with
    history := [⟨0, response⟩]
    host := { drv := .configuring, job := some job, results := [] } }

theorem witness_InitializeIssuesItsWrites :
    (waiting .initRange ⟨.ok, []⟩).block.seq = .idle ∧ (waiting .initRange ⟨.ok, []⟩).port = none ∧
    (waiting .initRange ⟨.ok, []⟩).host.job = some .initRange ∧
    (waiting .initRange ⟨.ok, []⟩).lastResponse = some ⟨.ok, []⟩ ∧
    (waiting .initActivate ⟨.ok, []⟩).host.job = some .initActivate := by decide
theorem witness_ResetPoll :
    (waiting (.initPoll 0) ⟨.ok, [0x40]⟩).lastResponse = some ⟨.ok, [0x40]⟩ ∧
    (0x40 : Byte) &&& gkConfig.ctrl2ResetMask ≠ 0 ∧ (0x02 : Byte) &&& gkConfig.ctrl2ResetMask = 0 ∧
    gkConfig.resetPollMax ≠ some 1 ∧ ({ gkConfig with resetPollMax := some 1 } : Config).resetPollMax = some 1 := by decide
theorem witness_ResetPoll_boundZero :
    ({ gkConfig with resetPollMax := some 0 } : Config).resetPollMax ≠ some (0 + 1) := by decide
theorem witness_AHostProcedureStops :
    (waiting .initHires ⟨.fault .transportError, []⟩).host.job = some .initHires ∧
    (waiting .initHires ⟨.fault .transportError, []⟩).lastResponse = some ⟨.fault .transportError, []⟩ := by decide
theorem witness_UnboundedPoll :
    ∃ s : State, s.block.seq = .idle ∧ s.host.job = some (.initPoll 0) ∧
      s.port = some (encode (.rdreg s.config.regCtrl2)) ∧ s.config.resetPollMax = none ∧
      (∀ c ∈ ([0x40] : List Byte), resetBitSet s.config c) ∧ ¬ resetBitSet s.config 0x00 ∧
      s.device = .oracle ((([0x40] : List Byte).flatMap fun c => ([.ok [], .ok [c]] : List BusReply)) ++
        ([.ok [], .ok [0x00]] : List BusReply) ++ []) 0 :=
  ⟨{ stateOn (.oracle [.ok [], .ok [0x40], .ok [], .ok [0x00]] 0) with
      port := some (encode (.rdreg gkConfig.regCtrl2))
      host := { drv := .configuring, job := some (.initPoll 0), results := [] } },
    rfl, rfl, rfl, rfl, by unfold resetBitSet; decide, by unfold resetBitSet; decide, rfl⟩

/-- INITIALIZE on a fixture whose identity register reads `DEVICE_ID`. -/
def identityRun : State := calling [.call .initialise] (.mock (mockOf [(0x0D, 0x1A)]))

theorem witness_InitializeGoesOn :
    identityRun.hostFree ∧ stepN 3 identityRun = .next (nextOf (stepN 3 identityRun) identityRun) ∧
    (nextOf (stepN 3 identityRun) identityRun).trace =
      identityRun.trace ++ [.write 0x1D [0x0D] true (.ok []), .read 0x1D 1 (.ok [0x1A])] ∧
    identityLaw gkConfig (accesses [.write 0x1D [0x0D] true (.ok []), .read 0x1D 1 (.ok [0x1A])]) :=
  ⟨⟨rfl, rfl, rfl⟩, rfl, by decide, by simp [identityLaw, accesses, gkConfig]⟩

/-- INITIALIZE on a device whose reset bit clears at the third poll. -/
def initializeRun : State :=
  calling [.call .initialise]
    (.oracle (([.ok [], .ok [0x1A], .ok []] : List BusReply) ++
      (([0x40, 0x42] : List Byte).flatMap fun c => ([.ok [], .ok [c]] : List BusReply)) ++
      ([.ok [], .ok [0x00]] : List BusReply) ++ List.replicate 6 (BusReply.ok [])) 0)

theorem witness_InitializeRunsToReady :
    initializeRun.hostFree ∧ (∀ c ∈ ([0x40, 0x42] : List Byte), resetBitSet gkConfig c) ∧
    ¬ resetBitSet gkConfig 0x00 ∧ ∀ bound, gkConfig.resetPollMax = some bound → 2 < bound :=
  ⟨⟨rfl, rfl, rfl⟩, by unfold resetBitSet; decide, by unfold resetBitSet; decide, by simp [gkConfig]⟩
-- P5, the last command: the byte of step 7 and `DRV`.
theorem test_initialize_ends_ready :
    (nextOf (stepN 23 initializeRun) initializeRun).host = { drv := .ready, job := none, results := [.ok []] } ∧
    (nextOf (stepN 23 initializeRun) initializeRun).trace.getLast? = some (.write 0x1D [0x2A, 0x05] false (.ok [])) := by
  decide

/-- The accesses of an INITIALIZE whose reset bit clears at the third poll. -/
def initializeLog : List RegAccess :=
  [.readAs 0x0D 0x1A, .wrote 0x2B 0x40, .readAs 0x2B 0x40, .readAs 0x2B 0x42, .readAs 0x2B 0x00, .wrote 0x0E 0x01,
   .wrote 0x2B 0x02, .wrote 0x2D 0x01, .wrote 0x2E 0x01, .wrote 0x11 0x40, .wrote 0x2A 0x05]

theorem initializeLog_resetLaw : resetLaw gkConfig ⟨2, some false⟩ ⟨some true, some 2, .settled⟩ initializeLog := by
  simp [initializeLog, resetLaw, DeviceView.lawful, resetAllowed, ResetPhase.mayReadSet, DeviceView.after,
    DeviceView.afterRead, DeviceView.afterWrite, gkConfig]

theorem witness_InitializeEndsUnderTheResetLaw :
    initializeRun.inputs = [.call .initialise] ∧
    (∀ bound, gkConfig.resetPollMax = some bound → 2 < bound) ∧
    stepN 23 initializeRun = .next (nextOf (stepN 23 initializeRun) initializeRun) ∧
    accesses (nextOf (stepN 23 initializeRun) initializeRun).trace = initializeLog ∧
    (∀ e ∈ (nextOf (stepN 23 initializeRun) initializeRun).trace, e.reply ≠ .fail ∧ e.reply ≠ .never) ∧
    identityLaw gkConfig initializeLog ∧ resetLaw gkConfig ⟨2, some false⟩ ⟨some true, some 2, .settled⟩ initializeLog :=
  ⟨rfl, by simp [gkConfig], rfl, by decide, by decide, by simp [identityLaw, initializeLog, gkConfig],
    initializeLog_resetLaw⟩

/-- INITIALIZE and GETRANGE on a device that was active at ±8g. -/
def initializeThenRange : State :=
  calling [.call .initialise, .call .getRange]
    (.oracle (([.ok [], .ok [0x1A], .ok []] : List BusReply) ++
      (([0x40, 0x42] : List Byte).flatMap fun c => ([.ok [], .ok [c]] : List BusReply)) ++
      ([.ok [], .ok [0x00]] : List BusReply) ++ List.replicate 6 (BusReply.ok []) ++
      ([.ok [], .ok [0x01]] : List BusReply)) 0)

theorem witness_GetRangeAfterInitialize :
    initializeThenRange.hostFree ∧ registersApart gkConfig ∧ configWf gkConfig = true ∧
    stepN 26 initializeThenRange = .next (nextOf (stepN 26 initializeThenRange) initializeThenRange) ∧
    accesses (nextOf (stepN 26 initializeThenRange) initializeThenRange).trace = initializeLog ++ [.readAs 0x0E 0x01] ∧
    identityLaw gkConfig (initializeLog ++ [.readAs 0x0E 0x01]) ∧
    resetLaw gkConfig ⟨2, some false⟩ ⟨some true, some 2, .settled⟩ (initializeLog ++ [.readAs 0x0E 0x01]) ∧
    rangeLaw gkConfig ⟨2, some false⟩ ⟨some true, some 2, .settled⟩ (initializeLog ++ [.readAs 0x0E 0x01]) :=
  ⟨⟨rfl, rfl, rfl⟩, by unfold registersApart; decide, by decide, rfl, by decide,
    by simp [identityLaw, initializeLog, gkConfig],
    by simp [initializeLog, resetLaw, DeviceView.lawful, resetAllowed, ResetPhase.mayReadSet, DeviceView.after,
      DeviceView.afterRead, DeviceView.afterWrite, gkConfig],
    by simp [initializeLog, rangeLaw, DeviceView.lawful, rangeAllowed, DeviceView.after, DeviceView.afterRead,
      DeviceView.afterWrite, gkConfig, ctrl1Active, rangeField]⟩

-- N7, R43: after SETRANGE on an active device a device reset leaves the range open; a range write after it in standby
-- takes effect.
theorem test_view_after_a_device_reset :
    ([.wrote 0x2A 0x05, .wrote 0x2B 0x40] : List RegAccess).foldl (DeviceView.after gkConfig ⟨2, none⟩)
      ⟨some false, some 2, .settled⟩ = ⟨none, none, .running 2⟩ ∧
    ([.wrote 0x2B 0x40, .readAs 0x2B 0x00, .wrote 0x0E 0x01] : List RegAccess).foldl
      (DeviceView.after gkConfig ⟨2, some false⟩) ⟨some true, some 2, .settled⟩ = ⟨some false, some 1, .settled⟩ := by decide
-- U5, U9: a write while the reset runs, and a failed write, leave open what they may have changed.
theorem test_view_after_uncertain_writes :
    ([.wrote 0x2B 0x40, .wrote 0x0E 0x01] : List RegAccess).foldl (DeviceView.after gkConfig ⟨2, some false⟩)
      ⟨some true, some 2, .settled⟩ = .allUnknown ∧
    ([.mayHaveWritten 0x2A 0x04] : List RegAccess).foldl (DeviceView.after gkConfig ⟨2, none⟩)
      ⟨some true, some 2, .settled⟩ = ⟨none, some 2, .settled⟩ := by decide

/-- SETDATARATE 3 and GETDATARATE on the fixture, the device active (P3). -/
def rateRun : State := calling [.call (.setDataRate 3), .call .getDataRate] (.mock (mockOf [(0x2A, 0x05)]))

theorem witness_GetDataRateAfterSetDataRate :
    rateRun.hostFree ∧ (mockOf [(0x2A, 0x05)]).verdicts = [] ∧ (mockOf [(0x2A, 0x05)]).selfClear = none ∧
    Memory.wf (mockOf [(0x2A, 0x05)]).mem = true ∧ Memory.read gkConfig.regCtrl1.toNat (mockOf [(0x2A, 0x05)]).mem = 0x05 :=
  ⟨⟨rfl, rfl, rfl⟩, rfl, rfl, by decide, by decide⟩
-- P3
theorem test_data_rate :
    (nextOf (stepN 12 rateRun) rateRun).host.results = [.ok [], .ok [0x03]] ∧
    (nextOf (stepN 12 rateRun) rateRun).device =
      .mock { mockOf [(0x2A, 0x1D)] with
        pointer := 0x2A, log := [(0x2A, 0x04), (0x2A, 0x1C), (0x2A, 0x1D)] } := by decide

/-- A bare range write to an active device, between two reads of the range (R226). -/
def bareRun : State :=
  calling [.command (encode (.rdreg 0x2A)), .command (encode (.rdreg 0x0E)), .command (encode (.wrreg 0x0E 0x02)),
      .command (encode (.rdreg 0x0E))]
    (.oracle [.ok [], .ok [0x05], .ok [], .ok [0x01], .ok [], .ok [], .ok [0x01]] 0)

theorem witness_ABareRangeWrite :
    bareRun.hostFree ∧ stepN 8 bareRun = .next (nextOf (stepN 8 bareRun) bareRun) ∧
    accesses (nextOf (stepN 8 bareRun) bareRun).trace =
      [.readAs 0x2A 0x05, .readAs 0x0E 0x01, .wrote 0x0E 0x02, .readAs 0x0E 0x01] ∧
    rangeLaw gkConfig ⟨2, none⟩ ⟨none, none, .settled⟩
      [.readAs 0x2A 0x05, .readAs 0x0E 0x01, .wrote 0x0E 0x02, .readAs 0x0E 0x01] ∧
    ctrl1Active 0x05 = true ∧ ctrl1Active 0x04 = false :=
  ⟨⟨rfl, rfl, rfl⟩, rfl, by decide, by
    simp [rangeLaw, DeviceView.lawful, rangeAllowed, DeviceView.after, DeviceView.afterRead, DeviceView.afterWrite,
      gkConfig, ctrl1Active, rangeField], by decide, by decide⟩

/-- SETRANGE ±8g and GETRANGE on the fixture, the device active. -/
def rangeRun : State := calling [.call (.setRange .g8), .call .getRange] (.mock (mockOf [(0x0E, 0x01), (0x2A, 0x05)]))

/-- The trace of P1. -/
def rangeTrace : List BusEvent :=
  [.write 0x1D [0x2A] true (.ok []), .read 0x1D 1 (.ok [0x05]), .write 0x1D [0x2A, 0x04] false (.ok []),
   .write 0x1D [0x0E, 0x02] false (.ok []), .write 0x1D [0x2A, 0x05] false (.ok []), .write 0x1D [0x0E] true (.ok []),
   .read 0x1D 1 (.ok [0x02])]

theorem witness_GetRangeAfterSetRange :
    rangeRun.hostFree ∧ rangeRun.inputs = [.call (.setRange .g8), .call .getRange] ∧
    rangeRun.device = .mock (mockOf [(0x0E, 0x01), (0x2A, 0x05)]) ∧
    Memory.wf (mockOf [(0x0E, 0x01), (0x2A, 0x05)]).mem = true ∧ gkConfig.regCtrl1 ≠ gkConfig.regXyzDataCfg :=
  ⟨⟨rfl, rfl, rfl⟩, rfl, rfl, by decide, by decide⟩
theorem witness_SetRangeTakesEffect :
    rangeRun.hostFree ∧ stepN 12 rangeRun = .next (nextOf (stepN 12 rangeRun) rangeRun) ∧
    (nextOf (stepN 12 rangeRun) rangeRun).trace = rangeRun.trace ++ rangeTrace ∧
    (∀ e ∈ rangeTrace, ∃ bytes, e.reply = .ok bytes) ∧ rangeLaw gkConfig ⟨2, none⟩ ⟨none, none, .settled⟩ (accesses rangeTrace) ∧
    gkConfig.regCtrl2 ≠ gkConfig.regCtrl1 ∧ gkConfig.regCtrl2 ≠ gkConfig.regXyzDataCfg :=
  ⟨⟨rfl, rfl, rfl⟩, rfl, by decide, by simp [rangeTrace, BusEvent.reply], by
    simp [rangeTrace, accesses, rangeLaw, DeviceView.lawful, rangeAllowed, DeviceView.after, DeviceView.afterRead,
      DeviceView.afterWrite, gkConfig, ctrl1Active, rangeField], by decide, by decide⟩

end Sys2Proof.Tests
end

section
/-! What one step of the machine can do, said once, and that no step changes `Config` (R10, R29). -/

namespace Sys2Proof.Proofs

open Sys2Proof.Machine Sys2Proof.Laws

/-- The four ways a step goes: a busy block stays as it is; with no word presented the outside moves; a presented word
is taken and runs as its command, or is answered as illegal. -/
inductive Stepped (s t : State) : Prop
  | waits (seq : s.block.seq = .busy) (noReset : s.inputs.head? ≠ some .reset) (next : t = s)
  | hostMoves (seq : s.block.seq = .idle) (port : s.port = none) (next : t = s.hostStep)
  | runs (w : CommandWord) (i : Instr) (seq : s.block.seq = .idle) (port : s.port = some w) (legal : decode w = .ok i)
      (next : exec i { s with port := none } = .next t)
  | rejects (w : CommandWord) (e : DecodeError) (seq : s.block.seq = .idle) (port : s.port = some w)
      (illegal : decode w = .error e) (next : t = { s with port := none }.rejectIllegal w)

/-- Every step to a next state goes one of the four ways. -/
theorem step_stepped {s t : State} (h : step s = .next t) : Stepped s t := by
  unfold step at h
  cases hseq : s.block.seq with
  | busy =>
    simp only [hseq, busyStep] at h
    split at h
    · cases h
    · cases h
      exact .waits hseq ‹_› rfl
  | idle =>
    simp only [hseq, idleStep] at h
    cases hport : s.port with
    | none =>
      simp only [hport, Host.Outcome.next.injEq] at h
      exact .hostMoves hseq hport h.symm
    | some w =>
      simp only [hport, runWord] at h
      cases hw : decode w with
      | ok i =>
        simp only [hw] at h
        exact .runs w i hseq hport hw h
      | error e =>
        simp only [hw, Host.Outcome.next.injEq] at h
        exact .rejects w e hseq hport hw h.symm

/-- A command does not change the parameters of the machine. -/
theorem exec_config {i : Instr} {s t : State} (h : exec i s = .next t) : t.config = s.config := by
  rw [exec_frame h]

@[simp] theorem hostTurn_config (s : State) (turn : HostTurn) : (s.hostTurn turn).config = s.config := by
  unfold State.hostTurn
  split <;> rfl

@[simp] theorem resumeJob_config (s : State) (job : Job) : (s.resumeJob job).config = s.config := by
  unfold State.resumeJob
  split
  · exact hostTurn_config s _
  · rfl

@[simp] theorem takeInput_config (s : State) : s.takeInput.config = s.config := by
  unfold State.takeInput
  cases s.inputs with
  | nil => rfl
  | cons input rest =>
    cases input with
    | command w => rfl
    | call p => exact hostTurn_config _ _
    | reset => exact resetBlock_config _

@[simp] theorem hostStep_config (s : State) : s.hostStep.config = s.config := by
  unfold State.hostStep
  split
  · exact resumeJob_config s _
  · exact takeInput_config s

/-- Settles O38, by the four ways a step goes: a command's frame holds `Config`, and no host move writes it. -/
theorem configIsConstant : Obligations.ConfigIsConstant := by
  intro s t h
  cases step_stepped h with
  | waits _ _ next => rw [next]
  | hostMoves _ _ next => rw [next, hostStep_config]
  | runs _ _ _ _ _ next => rw [exec_config next]
  | rejects _ _ _ _ _ next => rw [next, rejectIllegal_config]

end Sys2Proof.Proofs
end

section
/-! Every word the decoder accepts is the word of the command it gives: the fields of Table 30-1 cover the whole
word (R80, R85). -/

namespace Sys2Proof.Proofs

open Sys2Proof.Laws

/-- What a field holds, as arithmetic on the word's number. -/
theorem toNat_of_field {c : CommandWord} {k l n : Nat} {v : BitVec l} (h : c.extractLsb' k l = v) (hv : v.toNat = n) :
    c.toNat / 2 ^ k % 2 ^ l = n := by
  rw [← toNat_extract_eq_div_mod, h, hv]

theorem encode_wrreg_fields {c : CommandWord} (op : opcodeField c = opWrreg) (mbz : transportMbz c = 0) :
    encode (.wrreg (addrField c) (imm8Field c)) = c := by
  have hop := toNat_of_field op (n := 0x01) rfl
  have hmbz := toNat_of_field mbz (n := 0) rfl
  apply BitVec.eq_of_toNat_eq
  simp only [encode_wrreg_toNat, addrField, imm8Field, toNat_extract_eq_div_mod]
  omega

theorem encode_rdreg_fields {c : CommandWord} (op : opcodeField c = opRdreg) (mbz : payloadField c = 0) :
    encode (.rdreg (addrField c)) = c := by
  have hop := toNat_of_field op (n := 0x02) rfl
  have hmbz := toNat_of_field mbz (n := 0) rfl
  apply BitVec.eq_of_toNat_eq
  simp only [encode_rdreg_toNat, addrField, toNat_extract_eq_div_mod]
  omega

theorem encode_rdblk_fields {c : CommandWord} (op : opcodeField c = opRdblk) (mbz : transportMbz c = 0) :
    encode (.rdblk (addrField c) (imm8Field c)) = c := by
  have hop := toNat_of_field op (n := 0x03) rfl
  have hmbz := toNat_of_field mbz (n := 0) rfl
  apply BitVec.eq_of_toNat_eq
  simp only [encode_rdblk_toNat, addrField, imm8Field, toNat_extract_eq_div_mod]
  omega

theorem encode_decode_fields {c : CommandWord} (op : opcodeField c = opDecode) (mbz : decodeMbz c = 0) :
    encode (.decode (rngField c) (c.extractLsb' 40 8) (c.extractLsb' 32 8) (c.extractLsb' 24 8)
      (c.extractLsb' 16 8) (c.extractLsb' 8 8) (c.extractLsb' 0 8)) = c := by
  have hop := toNat_of_field op (n := 0x10) rfl
  have hmbz := toNat_of_field mbz (n := 0) rfl
  apply BitVec.eq_of_toNat_eq
  simp only [encode_decode_toNat, rngField, toNat_extract_eq_div_mod]
  omega

theorem encode_acquire_fields {c : CommandWord} (op : opcodeField c = opAcquire) (mbz : acquireMbz c = 0) :
    encode .acquire = c := by
  have hop := toNat_of_field op (n := 0x11) rfl
  have hmbz := toNat_of_field mbz (n := 0) rfl
  apply BitVec.eq_of_toNat_eq
  rw [encode_acquire_toNat]
  omega

/-- A word that decodes to a command is that command's word. -/
theorem encode_of_decode {c : CommandWord} {i : Instr} (h : decode c = .ok i) : encode i = c := by
  unfold decode at h
  split at h
  · split at h
    · cases h
      exact encode_wrreg_fields ‹_› ‹_›
    · cases h
  split at h
  · split at h
    · cases h
      exact encode_rdreg_fields ‹_› ‹_›
    · cases h
  split at h
  · split at h
    · split at h
      · cases h
      · cases h
        exact encode_rdblk_fields ‹_› ‹_›
    · cases h
  split at h
  · split at h
    · cases h
      exact encode_decode_fields ‹_› ‹_›
    · cases h
  split at h
  · split at h
    · cases h
      exact encode_acquire_fields ‹_› ‹_›
    · cases h
  · cases h

end Sys2Proof.Proofs
end

section
/-! What a step does to the sample registers and the flag (R20 to R25): the outside's moves, the reset of the block
(R31, R220), and the commands. -/

namespace Sys2Proof.Proofs

open Sys2Proof.Machine Sys2Proof.Laws

/-- Settles O22: a reader of a port tests the flag and nothing else. -/
theorem samplePortsShowTheRegisters : Obligations.SamplePortsShowTheRegisters := by
  refine fun b => ⟨fun valid => ?_, fun invalid => ?_⟩
  · simp [Block.readRawPacked, Block.readPhysPacked, valid, Block.rawPacked, Block.physPacked, sext16]
  · simp [Block.readRawPacked, Block.readPhysPacked, invalid]

/-- Settles O7, by the branches of `step` that its hypotheses choose. -/
theorem stepRunsTheDecodedCommand : Obligations.StepRunsTheDecodedCommand := by
  intro s c i hseq hport hdec
  simp only [step, hseq, idleStep, hport, runWord, hdec]

/-- The two ways the outside moves while the block is idle and nothing is presented: it resets the block, or it moves
its own state and the command port alone. -/
inductive HostMoved (s t : State) : Prop
  | reset (rest : List Input) (job : s.host.job = none) (inputs : s.inputs = .reset :: rest)
      (next : t = { s with inputs := rest }.resetBlock)
  | outside (next : t = { s with port := t.port, host := t.host, inputs := t.inputs })

theorem hostTurn_frame (s : State) (turn : HostTurn) :
    s.hostTurn turn = { s with port := (s.hostTurn turn).port, host := (s.hostTurn turn).host } := by
  unfold State.hostTurn
  split <;> rfl

theorem resumeJob_frame (s : State) (job : Job) :
    s.resumeJob job = { s with port := (s.resumeJob job).port, host := (s.resumeJob job).host } := by
  unfold State.resumeJob
  split
  · exact hostTurn_frame s _
  · rfl

/-- Every move of the outside goes one of the two ways. -/
theorem hostStep_moved (s : State) : HostMoved s s.hostStep := by
  unfold State.hostStep
  cases hjob : s.host.job with
  | some job =>
    refine .outside ?_
    dsimp only
    rw [resumeJob_frame]
  | none =>
    dsimp only [State.takeInput]
    cases hin : s.inputs with
    | nil => exact .outside rfl
    | cons input rest =>
      cases input with
      | command w => exact .outside rfl
      | call p =>
        refine .outside ?_
        dsimp only
        rw [hostTurn_frame]
      | reset => exact .reset rest hjob hin rfl

/-- A reset input is taken by an idle block with nothing presented and no procedure in progress (R220). -/
theorem step_reset {s : State} {rest : List Input} (free : s.hostFree) (inputs : s.inputs = .reset :: rest) :
    step s = .next { s with inputs := rest }.resetBlock := by
  obtain ⟨hseq, hport, hjob⟩ := free
  simp only [step, hseq, idleStep, hport, State.hostStep, hjob, State.takeInput, inputs]

/-- Settles O35: the step is the reset of the block, which writes `Block.afterReset`. -/
theorem resetLeavesTheSpecifiedValues : Obligations.ResetLeavesTheSpecifiedValues :=
  ⟨⟨rfl, rfl, rfl⟩, fun _ _ free inputs => ⟨_, step_reset free inputs, rfl, rfl, rfl, rfl, rfl, rfl⟩⟩

/-- `SAMPLE_VALID` is the last of the seven. -/
theorem sampleValid_of_sampleOf {b b' : Block} (h : b.sampleOf = b'.sampleOf) : b.sampleValid = b'.sampleValid := by
  simp only [Block.sampleOf, Prod.mk.injEq] at h
  obtain ⟨_, _, _, _, _, _, hv⟩ := h
  exact hv

/-- R23's law is about the seven alone. -/
theorem sampleLaw_of_sampleOf {b b' : Block} (h : b.sampleOf = b'.sampleOf) (law : b'.sampleLaw) : b.sampleLaw := by
  simp only [Block.sampleOf, Prod.mk.injEq] at h
  obtain ⟨hrx, hry, hrz, hpx, hpy, hpz, hv⟩ := h
  intro valid
  obtain ⟨r, hr⟩ := law (hv ▸ valid)
  refine ⟨r, fun a => ?_⟩
  have ha := hr a
  cases a <;> simp_all only [Block.raw, Block.phys]

/-- A DECODE or an ACQUIRE: the commands that may write the sample (Table 10-1). -/
def writesSample (i : Instr) : Prop :=
  (∃ rng b0 b1 b2 b3 b4 b5, i = .decode rng b0 b1 b2 b3 b4 b5) ∨ i = .acquire

/-- What a command does to the seven: nothing, or it stores a sample and is a DECODE or an ACQUIRE. -/
theorem exec_sample {i : Instr} {s t : State} (h : exec i s = .next t) :
    t.block.sampleOf = s.block.sampleOf ∨
    writesSample i ∧ ∃ burst r, t.block.sampleOf = (s.block.storeSample burst r).sampleOf := by
  cases exec_ran h with
  | hung sample => exact .inl sample
  | fault _ sample => exact .inl sample
  | plain _ sample => exact .inl sample
  | stored burst r sample _ _ _ command => exact .inr ⟨command.symm, burst, r, sample⟩

/-- What a step does to the seven: nothing; the values of reset, when a reset is taken; or a sample stored, when a
DECODE or an ACQUIRE runs. -/
theorem step_sample {s t : State} (h : step s = .next t) :
    t.block.sampleOf = s.block.sampleOf ∨
    ((s.hostFree ∧ s.inputs.head? = some .reset) ∧ t.block.sampleValid = false) ∨
    ((∃ c i, s.block.seq = .idle ∧ s.port = some c ∧ decode c = .ok i ∧ writesSample i) ∧
      ∃ burst r, t.block.sampleOf = (s.block.storeSample burst r).sampleOf) := by
  cases step_stepped h with
  | waits _ _ next => exact .inl (by rw [next])
  | hostMoves seq port next =>
    subst next
    cases hostStep_moved s with
    | reset rest job inputs next => exact .inr (.inl ⟨⟨⟨seq, port, job⟩, by rw [inputs]; rfl⟩, by rw [next]; rfl⟩)
    | outside next => exact .inl (by rw [next])
  | runs w i seq port legal next =>
    obtain same | ⟨command, stored⟩ := exec_sample next
    · exact .inl same
    · exact .inr (.inr ⟨⟨w, i, seq, port, legal, command⟩, stored⟩)
  | rejects _ _ _ _ _ next => exact .inl (by rw [next]; rfl)

/-- Settles O37, by what a step does to the seven. -/
theorem onlyDecodeAcquireAndResetWriteTheSample : Obligations.OnlyDecodeAcquireAndResetWriteTheSample := by
  intro s t h changed
  obtain same | ⟨reset, _⟩ | ⟨command, _⟩ := step_sample h
  · exact absurd same changed
  · exact .inl reset
  · exact .inr command

/-- A DECODE or an ACQUIRE that ends with OK sets the flag (R24). -/
theorem exec_ok_sampleValid {i : Instr} {s t : State} {data : List Byte} (command : writesSample i)
    (h : exec i s = .next t) (ok : t.history = s.history ++ [⟨encode i, ⟨.ok, data⟩⟩]) :
    t.block.sampleValid = true := by
  cases exec_ran h with
  | hung _ _ history => simp [history] at ok
  | fault f _ _ _ history => simp [history] at ok
  | plain _ _ _ _ _ _ notAcquire notDecode =>
    obtain ⟨rng, b0, b1, b2, b3, b4, b5, e⟩ | e := command
    · exact absurd e (notDecode rng b0 b1 b2 b3 b4 b5)
    · exact absurd e notAcquire
  | stored _ _ sample => exact sampleValid_of_sampleOf sample

/-- A command that ends with a fault leaves the flag (R24, R197). -/
theorem exec_fault_sampleValid {i : Instr} {s t : State} {f : CommandFault} (h : exec i s = .next t)
    (fault : t.history = s.history ++ [⟨encode i, ⟨.fault f, []⟩⟩]) :
    t.block.sampleValid = s.block.sampleValid := by
  cases exec_ran h with
  | hung _ _ history => simp [history] at fault
  | fault _ sample => exact sampleValid_of_sampleOf sample
  | plain _ _ _ _ history => simp [history] at fault
  | stored _ _ _ _ _ history => simp [history] at fault

/-- Nothing but reset clears the flag (R24). -/
theorem step_sampleValid {s t : State} (h : step s = .next t) (valid : s.block.sampleValid = true) :
    t.block.sampleValid = true ∨ (s.hostFree ∧ s.inputs.head? = some .reset) := by
  obtain same | ⟨reset, _⟩ | ⟨_, _, _, stored⟩ := step_sample h
  · exact .inl ((sampleValid_of_sampleOf same).trans valid)
  · exact .inr reset
  · exact .inl (sampleValid_of_sampleOf stored)

/-- Settles O36, clause by clause of R24. -/
theorem sampleValidIsSetBySamplesAndClearedByReset : Obligations.SampleValidIsSetBySamplesAndClearedByReset :=
  ⟨rfl, fun _ _ _ _ => exec_ok_sampleValid, fun _ _ _ _ => exec_fault_sampleValid, fun _ _ => step_sampleValid,
    fun b => (samplePortsShowTheRegisters b).2⟩

end Sys2Proof.Proofs
end

section
/-! The invariant of the machine, a part at a time: the bus and the fixture's store (R90, R115), the released bus (R28,
R54), the sample law (R23) and the shape of the responses (R86). -/

namespace Sys2Proof.Proofs

open Sys2Proof.Machine Sys2Proof.Laws

/-- The part of `Inv` that is about the bus and the device behind it. -/
structure BusSound (s : State) : Prop where
  framed : wellFramed s.trace = true
  addressed : ∀ e ∈ s.trace, e.dev = s.config.devAddr
  store : s.device.wf = true

/-- One whole frame more on the trace keeps the bus sound. -/
theorem BusSound.append {s t : State} (h : BusSound s) (config : t.config = s.config) {frame : List BusEvent}
    (trace : t.trace = s.trace ++ frame) (framed : wellFramed frame = true)
    (addressed : ∀ e ∈ frame, e.dev = s.config.devAddr) (store : t.device.wf = true) : BusSound t where
  framed := by
    rw [trace]
    exact wellFramed_append h.framed framed
  addressed e he := by
    rw [trace, List.mem_append] at he
    rw [config]
    exact he.elim (h.addressed e) (addressed e)
  store := store

theorem memWrite_busSound {s : State} (h : BusSound s) (addr value : Byte) : BusSound (s.memWrite addr value).2 :=
  h.append rfl rfl rfl (by simp [BusEvent.dev]) (deviceWrite_wf _ _ h.store)

theorem memRead_wf {s : State} (addr : Byte) (n : Nat) (h : s.device.wf = true) :
    (s.memRead addr n).2.device.wf = true := by
  have sent := deviceWrite_wf [addr] true h
  obtain ⟨_, e⟩ | ⟨_, e⟩ | ⟨_, e⟩ := memRead_cases s addr n
  · rw [e]
    exact deviceRead_wf n sent
  · rw [e]
    exact sent
  · rw [e]
    exact sent

theorem memRead_busSound {s : State} (h : BusSound s) (addr : Byte) {n : Nat} (pos : 1 ≤ n) (le : n ≤ 255) :
    BusSound (s.memRead addr n).2 := by
  have store := memRead_wf addr n h.store
  rcases hm : s.memRead addr n with ⟨r, t⟩
  rw [hm] at store
  obtain ⟨_, _, _, config, _⟩ := memRead_frame hm
  obtain trace | ⟨rfl | rfl, trace⟩ := memRead_trace hm
  · exact h.append config trace (by simp [wellFramed, pos, le]) (by simp [BusEvent.dev]) store
  · exact h.append config trace rfl (by simp [BusEvent.dev]) store
  · exact h.append config trace rfl (by simp [BusEvent.dev]) store

theorem respond_busSound {s : State} (h : BusSound s) (cmd : CommandWord) (status : Status) (data : List Byte) :
    BusSound (s.respond cmd status data) :=
  ⟨h.framed, h.addressed, h.store⟩

theorem afterTransaction_busSound {cmd : CommandWord} {r : BusReply × State} {next : List Byte → State → State}
    (h : BusSound r.2) (hn : ∀ bytes u, BusSound u → BusSound (next bytes u)) :
    BusSound (afterTransaction cmd r next) := by
  rcases r with ⟨bytes | _ | _, u⟩
  · exact hn bytes u h
  · exact respond_busSound h _ _ _
  · exact h

theorem finishSample_busSound {s : State} (h : BusSound s) (cmd : CommandWord) (rng : RangeCode) (burst : Burst) :
    BusSound (s.finishSample cmd rng burst) := by
  obtain ⟨_, e⟩ | ⟨_, _, e⟩ := finishSample_cases s cmd rng burst
  · rw [e]
    exact respond_busSound h _ _ _
  · rw [e]
    exact ⟨h.framed, h.addressed, h.store⟩

/-- A command keeps the bus sound: it sends whole frames to the one device. -/
theorem exec_busSound {i : Instr} {s t : State} (h : BusSound s) (hexec : exec i s = .next t) : BusSound t := by
  have accepted : BusSound s.accept := ⟨h.framed, h.addressed, h.store⟩
  cases i with
  | wrreg addr value =>
    cases hexec
    exact afterTransaction_busSound (memWrite_busSound accepted addr value) fun _ _ hu => respond_busSound hu _ _ _
  | rdreg addr =>
    cases hexec
    exact afterTransaction_busSound (memRead_busSound accepted addr le_rfl (by decide)) fun _ _ hu =>
      respond_busSound hu _ _ _
  | rdblk addr count =>
    simp only [exec, execRdblk, Host.Outcome.next.injEq] at hexec
    split at hexec
    · exact hexec ▸ ⟨h.framed, h.addressed, h.store⟩
    · have pos : 1 ≤ count.toNat := by bv_omega
      have le : count.toNat ≤ 255 := by omega
      exact hexec ▸ afterTransaction_busSound (memRead_busSound accepted addr pos le) fun _ _ hu =>
        respond_busSound hu _ _ _
  | decode rng b0 b1 b2 b3 b4 b5 =>
    cases hexec
    exact finishSample_busSound accepted _ rng _
  | acquire =>
    cases hexec
    refine afterTransaction_busSound (memRead_busSound accepted _ (by decide) (by decide)) fun burst u hu => ?_
    exact afterTransaction_busSound (memRead_busSound hu _ le_rfl (by decide)) fun _ v hv =>
      finishSample_busSound hv _ _ _

theorem step_busSound {s t : State} (h : BusSound s) (hstep : step s = .next t) : BusSound t := by
  cases step_stepped hstep with
  | waits _ _ next => exact next ▸ h
  | hostMoves _ _ next =>
    subst next
    cases hostStep_moved s with
    | reset _ _ _ next => exact next ▸ ⟨h.framed, h.addressed, h.store⟩
    | outside next => exact next ▸ ⟨h.framed, h.addressed, h.store⟩
  | runs _ _ _ _ _ next =>
    have emptied : BusSound { s with port := none } := ⟨h.framed, h.addressed, h.store⟩
    exact exec_busSound emptied next
  | rejects _ _ _ _ _ next => exact next ▸ ⟨h.framed, h.addressed, h.store⟩

/-- A block that is idle after a step has the bus released if it was so before. -/
theorem step_released {s t : State} (h : s.block.seq = .idle → s.block.busHeld = false) (hstep : step s = .next t)
    (idle : t.block.seq = .idle) : t.block.busHeld = false := by
  cases step_stepped hstep with
  | waits _ _ next => exact next ▸ h (next ▸ idle)
  | hostMoves seq _ next =>
    subst next
    cases hostStep_moved s with
    | reset _ _ _ next => rw [next]; rfl
    | outside next => rw [next]; exact h seq
  | runs _ _ seq _ _ next =>
    cases exec_ran next with
    | hung _ busy => simp [busy] at idle
    | fault _ _ _ held => exact held (h seq)
    | plain _ _ _ held => exact held
    | stored _ _ _ _ held => exact held (h seq)
  | rejects _ _ seq _ _ next => rw [next]; exact h seq

/-- A stored sample obeys R23's law. -/
theorem storeSample_sampleLaw (b : Block) (burst : Burst) (r : RangeSetting) : (b.storeSample burst r).sampleLaw :=
  fun _ => ⟨r, storeSample_phys b burst r⟩

theorem step_sampleLaw {s t : State} (h : s.block.sampleLaw) (hstep : step s = .next t) : t.block.sampleLaw := by
  obtain same | ⟨_, invalid⟩ | ⟨_, burst, r, stored⟩ := step_sample hstep
  · exact sampleLaw_of_sampleOf same h
  · intro valid
    simp [invalid] at valid
  · exact sampleLaw_of_sampleOf stored (storeSample_sampleLaw _ burst r)

/-- A step records nothing, or one exchange of the shape of R86. -/
theorem step_history {s t : State} (hstep : step s = .next t) :
    t.history = s.history ∨ ∃ x : Exchange, t.history = s.history ++ [x] ∧ x.shaped := by
  cases step_stepped hstep with
  | waits _ _ next => exact .inl (by rw [next])
  | hostMoves _ _ next =>
    subst next
    cases hostStep_moved s with
    | reset _ _ _ next => exact .inl (by rw [next]; rfl)
    | outside next => exact .inl (by rw [next])
  | runs w i _ _ legal next =>
    have word : decode (encode i) = .ok i := by rw [encode_of_decode legal, legal]
    cases exec_ran next with
    | hung _ _ history => exact .inl history
    | fault _ _ _ _ history => exact .inr ⟨_, history, rfl⟩
    | plain _ _ _ _ history length => exact .inr ⟨_, history, i, word, length⟩
    | stored _ _ _ _ _ history command =>
      refine .inr ⟨_, history, i, word, ?_⟩
      obtain rfl | ⟨_, _, _, _, _, _, _, rfl⟩ := command <;> rfl
  | rejects w _ _ _ _ next => exact .inr ⟨⟨w, ⟨.fault .illegalCommand, []⟩⟩, by rw [next]; rfl, rfl⟩

theorem step_shaped {s t : State} (h : ∀ x ∈ s.history, x.shaped) (hstep : step s = .next t) :
    ∀ x ∈ t.history, x.shaped := by
  obtain same | ⟨y, added, hy⟩ := step_history hstep
  · rwa [same]
  · intro x hx
    rw [added, List.mem_append, List.mem_singleton] at hx
    obtain old | rfl := hx
    · exact h x old
    · exact hy

/-- Settles O33, a part of the invariant at a time: the bus by the frames a command sends, the released bus and the
responses by the four ways a command goes, the sample law by what a step does to the sample registers. -/
theorem everyStepKeepsTheInvariant : Obligations.EveryStepKeepsTheInvariant := by
  intro s t inv hstep
  obtain ⟨framed, addressed, store⟩ := step_busSound ⟨inv.framed, inv.addressed, inv.store⟩ hstep
  exact
    { released := step_released inv.released hstep
      sample := step_sampleLaw inv.sample hstep
      framed := framed
      addressed := addressed
      shaped := step_shaped inv.shaped hstep
      store := store }

end Sys2Proof.Proofs
end

section
/-! When the bus is held (R28, R50, R51, R54), and that a command does not read the block's state (R68, R141). -/

namespace Sys2Proof.Proofs

open Sys2Proof.Machine Sys2Proof.Laws

/-- A write without hold that returns leaves the bus released (R50). -/
theorem heldAfterWrite_released {reply : BusReply} {before : Bool} (returned : reply ≠ .never) :
    heldAfterWrite false reply before = false := by
  cases reply with
  | ok _ => rfl
  | fail => rfl
  | never => exact absurd rfl returned

/-- A completed write with hold leaves the bus held (R50). -/
theorem busWrite_held {s : State} {dev : DevAddr} {sent got : List Byte} (h : (s.busWrite dev sent true).1 = .ok got) :
    (s.busWrite dev sent true).2.block.busHeld = true := by
  rw [busWrite_reply] at h
  simp [h]

/-- A command that starts with the bus released and has ended leaves it released (R54). -/
theorem exec_released {i : Instr} {s t : State} (released : s.block.busHeld = false) (h : exec i s = .next t)
    (ended : t.block.seq = .idle) : t.block.busHeld = false := by
  cases exec_ran h with
  | hung _ busy => simp [busy] at ended
  | fault _ _ _ held => exact held released
  | plain _ _ _ held => exact held
  | stored _ _ _ _ held => exact held released

/-- Settles O31: the transactions by what each primitive does to the bus, a command by the four ways it goes. -/
theorem anEndedCommandLeavesTheBusReleased : Obligations.AnEndedCommandLeavesTheBusReleased :=
  ⟨fun _ _ _ => heldAfterWrite_released, fun _ _ _ _ => busWrite_held, fun _ _ _ => memRead_released rfl,
    fun _ _ _ => exec_released⟩

/-- The second state is the first with some other block. -/
def DifferInBlock (s u : State) : Prop := ∃ b : Block, u = { s with block := b }

theorem DifferInBlock.config {s u : State} (h : DifferInBlock s u) : u.config = s.config := by
  obtain ⟨b, rfl⟩ := h
  rfl

theorem memWrite_differInBlock {s u : State} (h : DifferInBlock s u) (addr value : Byte) :
    (u.memWrite addr value).1 = (s.memWrite addr value).1 ∧
      DifferInBlock (s.memWrite addr value).2 (u.memWrite addr value).2 := by
  obtain ⟨b, rfl⟩ := h
  exact ⟨rfl, _, rfl⟩

/-- Whether a read transaction issues its read is the device's answer to the address write, which both runs share. -/
theorem memRead_differInBlock {s u : State} (h : DifferInBlock s u) (addr : Byte) (n : Nat) :
    (u.memRead addr n).1 = (s.memRead addr n).1 ∧ DifferInBlock (s.memRead addr n).2 (u.memRead addr n).2 := by
  obtain ⟨b, rfl⟩ := h
  dsimp only [State.memRead, State.busWrite]
  cases (s.device.write [addr] true).1 with
  | ok _ => exact ⟨rfl, _, rfl⟩
  | fail => exact ⟨rfl, _, rfl⟩
  | never => exact ⟨rfl, _, rfl⟩

theorem respond_differInBlock {s u : State} (h : DifferInBlock s u) (cmd : CommandWord) (status : Status)
    (data : List Byte) : DifferInBlock (s.respond cmd status data) (u.respond cmd status data) := by
  obtain ⟨b, rfl⟩ := h
  exact ⟨_, rfl⟩

theorem afterTransaction_differInBlock {cmd : CommandWord} {r q : BusReply × State}
    {next : List Byte → State → State} (h : q.1 = r.1 ∧ DifferInBlock r.2 q.2)
    (hn : ∀ bytes s u, DifferInBlock s u → DifferInBlock (next bytes s) (next bytes u)) :
    DifferInBlock (afterTransaction cmd r next) (afterTransaction cmd q next) := by
  obtain ⟨_, s⟩ := r
  obtain ⟨reply, u⟩ := q
  obtain ⟨rfl, differ⟩ := h
  cases reply with
  | ok bytes => exact hn bytes s u differ
  | fail => exact respond_differInBlock differ _ _ _
  | never => exact differ

/-- The 12 bytes of R87 are those of the sample just stored: what the block held before is not in them. -/
theorem finishSample_differInBlock {s u : State} (h : DifferInBlock s u) (cmd : CommandWord) (rng : RangeCode)
    (burst : Burst) : DifferInBlock (s.finishSample cmd rng burst) (u.finishSample cmd rng burst) := by
  obtain ⟨b, rfl⟩ := h
  unfold State.finishSample
  cases RangeSetting.ofCode rng with
  | none => exact ⟨_, rfl⟩
  | some r => exact ⟨_, rfl⟩

/-- A command run from two states that differ in the block alone ends in two such states. -/
theorem exec_differInBlock {i : Instr} {s u s' u' : State} (h : DifferInBlock s u) (hs : exec i s = .next s')
    (hu : exec i u = .next u') : DifferInBlock s' u' := by
  have accepted : DifferInBlock s.accept u.accept := by
    obtain ⟨b, rfl⟩ := h
    exact ⟨_, rfl⟩
  cases i with
  | wrreg addr value =>
    cases hs
    cases hu
    exact afterTransaction_differInBlock (memWrite_differInBlock accepted addr value) fun _ _ _ differ =>
      respond_differInBlock differ _ _ _
  | rdreg addr =>
    cases hs
    cases hu
    exact afterTransaction_differInBlock (memRead_differInBlock accepted addr 1) fun _ _ _ differ =>
      respond_differInBlock differ _ _ _
  | rdblk addr count =>
    cases hs
    cases hu
    split
    · exact respond_differInBlock accepted _ _ _
    · exact afterTransaction_differInBlock (memRead_differInBlock accepted addr count.toNat) fun _ _ _ differ =>
        respond_differInBlock differ _ _ _
  | decode rng b0 b1 b2 b3 b4 b5 =>
    cases hs
    cases hu
    exact finishSample_differInBlock accepted _ rng _
  | acquire =>
    cases hs
    cases hu
    rw [h.config]
    refine afterTransaction_differInBlock (memRead_differInBlock accepted _ 6) fun burst v w differ => ?_
    rw [differ.config]
    exact afterTransaction_differInBlock (memRead_differInBlock differ _ 1) fun _ _ _ differ =>
      finishSample_differInBlock differ _ _ _

/-- Settles O32: the two runs differ in the block alone, so their traces, devices and responses are the same. -/
theorem commandsDoNotReadTheOldSample : Obligations.CommandsDoNotReadTheOldSample := by
  intro i s t u b hs hu
  obtain ⟨_, rfl⟩ := exec_differInBlock ⟨b, rfl⟩ hs hu
  exact ⟨rfl, rfl, rfl⟩

end Sys2Proof.Proofs
end

section
/-! What one command does on the bus, said once, and from it the growth of the trace (R64, R115). -/

namespace Sys2Proof.Proofs

open Sys2Proof.Machine Sys2Proof.Laws

/-- `t` has the device and the bus trace that `u` has. -/
structure BusAs (u t : State) : Prop where
  device : t.device = u.device
  trace : t.trace = u.trace

/-- The four ways a command uses the bus: not at all; one register write transaction (WRREG); one register read
transaction; or two (ACQUIRE). Its response touches neither the device nor the trace. -/
inductive BusUse (s : State) (i : Instr) (t : State) : Prop
  | silent (notWrreg : ∀ addr value, i ≠ .wrreg addr value) (bus : BusAs s t)
  | writes (addr value : Byte) (command : i = .wrreg addr value) (bus : BusAs (s.accept.memWrite addr value).2 t)
  | reads (addr : Byte) (n : Nat) (notWrreg : ∀ addr value, i ≠ .wrreg addr value)
      (bus : BusAs (s.accept.memRead addr n).2 t)
  | readsTwice (first second : Byte) (n k : Nat) (command : i = .acquire)
      (bus : BusAs ((s.accept.memRead first n).2.memRead second k).2 t)

/-- What follows a transaction leaves the bus as the transaction left it, if the end of a completed one does. -/
theorem afterTransaction_bus {cmd : CommandWord} {r : BusReply × State} {next : List Byte → State → State}
    (hn : ∀ bytes u, BusAs u (next bytes u)) : BusAs r.2 (afterTransaction cmd r next) := by
  rcases r with ⟨bytes | _ | _, u⟩
  · exact hn bytes u
  · exact ⟨rfl, rfl⟩
  · exact ⟨rfl, rfl⟩

theorem finishSample_bus (s : State) (cmd : CommandWord) (rng : RangeCode) (burst : Burst) :
    BusAs s (s.finishSample cmd rng burst) := by
  obtain ⟨_, e⟩ | ⟨_, _, e⟩ := finishSample_cases s cmd rng burst
  · rw [e]
    exact ⟨rfl, rfl⟩
  · rw [e]
    exact ⟨rfl, rfl⟩

/-- Every command uses the bus one of the four ways. -/
theorem exec_busUse {i : Instr} {s t : State} (h : exec i s = .next t) : BusUse s i t := by
  cases i with
  | wrreg addr value =>
    cases h
    exact .writes addr value rfl (afterTransaction_bus fun _ _ => ⟨rfl, rfl⟩)
  | rdreg addr =>
    cases h
    exact .reads addr 1 (by simp) (afterTransaction_bus fun _ _ => ⟨rfl, rfl⟩)
  | rdblk addr count =>
    cases h
    split
    · exact .silent (by simp) ⟨rfl, rfl⟩
    · exact .reads addr count.toNat (by simp) (afterTransaction_bus fun _ _ => ⟨rfl, rfl⟩)
  | decode rng b0 b1 b2 b3 b4 b5 =>
    cases h
    obtain ⟨device, trace⟩ := finishSample_bus s.accept (encode (.decode rng b0 b1 b2 b3 b4 b5)) rng
      ⟨b0, b1, b2, b3, b4, b5⟩
    exact .silent (by simp) ⟨device, trace⟩
  | acquire =>
    cases h
    rcases hm : s.accept.memRead s.config.regOutXMsb 6 with ⟨burst | _ | _, u⟩
    · refine .readsTwice s.config.regOutXMsb u.config.regXyzDataCfg 6 1 rfl ?_
      rw [hm]
      exact afterTransaction_bus fun _ v => finishSample_bus v _ _ _
    · exact .reads s.config.regOutXMsb 6 (by simp) (by rw [hm]; exact ⟨rfl, rfl⟩)
    · exact .reads s.config.regOutXMsb 6 (by simp) (by rw [hm]; exact ⟨rfl, rfl⟩)

/-- The second list is the first with at most `k` elements appended. -/
def GrowsBy {α : Type} (k : Nat) (l m : List α) : Prop := ∃ added, m = l ++ added ∧ added.length ≤ k

theorem GrowsBy.refl {α : Type} (k : Nat) (l : List α) : GrowsBy k l l := ⟨[], by simp, Nat.zero_le k⟩

theorem GrowsBy.trans {α : Type} {j k : Nat} {l m n : List α} (h : GrowsBy j l m) (h' : GrowsBy k m n) :
    GrowsBy (j + k) l n := by
  obtain ⟨xs, rfl, hx⟩ := h
  obtain ⟨ys, rfl, hy⟩ := h'
  exact ⟨xs ++ ys, by simp, by simp; omega⟩

theorem GrowsBy.mono {α : Type} {j k : Nat} {l m : List α} (h : GrowsBy j l m) (le : j ≤ k) : GrowsBy k l m := by
  obtain ⟨xs, hm, hx⟩ := h
  exact ⟨xs, hm, hx.trans le⟩

/-- A register write transaction is one primitive (R53). -/
theorem memWrite_grows (s : State) (addr value : Byte) : GrowsBy 1 s.trace (s.memWrite addr value).2.trace :=
  ⟨_, rfl, le_rfl⟩

/-- A register read transaction is at most two primitives (R52). -/
theorem memRead_grows (s : State) (addr : Byte) (n : Nat) : GrowsBy 2 s.trace (s.memRead addr n).2.trace := by
  obtain trace | ⟨_, trace⟩ := memRead_trace (s := s) (addr := addr) (n := n) rfl
  · exact ⟨_, trace, le_rfl⟩
  · exact ⟨_, trace, by simp⟩

/-- A command issues at most four primitives (R232). -/
theorem exec_trace_grows {i : Instr} {s t : State} (h : exec i s = .next t) : GrowsBy 4 s.trace t.trace := by
  cases exec_busUse h with
  | silent _ bus => exact bus.trace ▸ .refl 4 _
  | writes addr value _ bus => exact bus.trace ▸ (memWrite_grows s.accept addr value).mono (by decide)
  | reads addr n _ bus => exact bus.trace ▸ (memRead_grows s.accept addr n).mono (by decide)
  | readsTwice first second n k _ bus =>
    exact bus.trace ▸ (memRead_grows s.accept first n).trans (memRead_grows _ second k)

theorem step_trace_grows {s t : State} (h : step s = .next t) : GrowsBy 4 s.trace t.trace := by
  cases step_stepped h with
  | waits _ _ next => exact next ▸ .refl 4 _
  | hostMoves _ _ next =>
    subst next
    cases hostStep_moved s with
    | reset _ _ _ next => exact next ▸ .refl 4 _
    | outside next => exact next ▸ .refl 4 _
  | runs _ _ _ _ _ next => exact exec_trace_grows (s := { s with port := none }) next
  | rejects _ _ _ _ _ next => exact next ▸ .refl 4 _

theorem step_history_grows {s t : State} (h : step s = .next t) : GrowsBy 1 s.history t.history := by
  obtain same | ⟨x, added, _⟩ := step_history h
  · exact same ▸ .refl 1 _
  · exact ⟨[x], added, le_rfl⟩

/-- Settles O39: the trace by the ways a command uses the bus, the responses by what a step records. -/
theorem traceAndHistoryOnlyGrow : Obligations.TraceAndHistoryOnlyGrow :=
  fun _ _ h => ⟨step_trace_grows h, step_history_grows h⟩

end Sys2Proof.Proofs
end

section
/-! What commands store in the fixture (R63): WRREG its one byte, every other command nothing. -/

namespace Sys2Proof.Proofs

open Sys2Proof.Machine Sys2Proof.Laws

/-- A write of which the test says nothing completes (R63). -/
theorem mock_write_unsaid {m : MockDevice} (unsaid : m.verdicts = []) (bytes : List Byte) (hold : Bool) :
    (Device.mock m).write bytes hold = (.ok [], .mock (m.spend.take bytes hold)) := by
  simp [Device.write, MockDevice.write, MockDevice.verdict, unsaid]

/-- A read of any address after one was written, in a canonical store. -/
theorem read_write {m : Memory} (wf : Memory.wf m = true) (a b : Nat) (v : Byte) :
    Memory.read b (Memory.write a v m) = if b = a then v else Memory.read b m := by
  split
  · next e => rw [e, read_write_same a v wf]
  · next ne => exact read_write_other ne

/-- Settles O40: WRREG is one two-byte write, which the fixture stores and logs. -/
theorem wrregStoresOneByteOfTheMock : Obligations.WrregStoresOneByteOfTheMock := by
  intro addr value s m mock unsaid wf
  obtain ⟨t, h⟩ := exec_completes (.wrreg addr value) s
  refine ⟨t, m.spend.take [addr, value] false, h, ?_, rfl, fun a => read_write wf addr.toNat a value,
    write_wf addr value wf⟩
  cases exec_busUse h with
  | silent notWrreg => exact absurd rfl (notWrreg addr value)
  | reads _ _ notWrreg => exact absurd rfl (notWrreg addr value)
  | readsTwice _ _ _ _ command => cases command
  | writes _ _ command bus =>
    cases command
    rw [bus.device, State.memWrite, busWrite_device, accept_device, mock, mock_write_unsaid unsaid]

/-- The device is a fixture with the store and the log of `m`, and without the self-clearing variant. -/
def HoldsStore (m : MockDevice) (d : Device) : Prop :=
  ∃ m', d = .mock m' ∧ m'.log = m.log ∧ m'.mem = m.mem ∧ m'.selfClear = none

/-- A write of one byte with hold moves the pointer and stores nothing (R63). -/
theorem write_pointer_holdsStore {m : MockDevice} {d : Device} (h : HoldsStore m d) (addr : Byte) :
    HoldsStore m (d.write [addr] true).2 := by
  obtain ⟨m', rfl, log, mem, plain⟩ := h
  refine ⟨_, rfl, ?_⟩
  unfold MockDevice.write
  cases m'.verdict <;> exact ⟨log, mem, plain⟩

/-- A read stores nothing in a fixture without the self-clearing variant (R63). -/
theorem read_holdsStore {m : MockDevice} {d : Device} (h : HoldsStore m d) (n : Nat) :
    HoldsStore m (d.read n).2 := by
  obtain ⟨m', rfl, log, mem, plain⟩ := h
  have read : m'.spend.afterRead = m'.spend := by simp [MockDevice.afterRead, MockDevice.spend, plain]
  refine ⟨_, rfl, ?_⟩
  unfold MockDevice.read
  rw [read]
  cases m'.verdict <;> exact ⟨log, mem, plain⟩

theorem memRead_holdsStore {m : MockDevice} {s : State} (h : HoldsStore m s.device) (addr : Byte) (n : Nat) :
    HoldsStore m (s.memRead addr n).2.device := by
  have selected := write_pointer_holdsStore h addr
  obtain ⟨_, e⟩ | ⟨_, e⟩ | ⟨_, e⟩ := memRead_cases s addr n
  · rw [e]
    exact read_holdsStore selected n
  · rw [e]
    exact selected
  · rw [e]
    exact selected

/-- Every command but WRREG leaves the fixture's store and log (R63). -/
theorem exec_holdsStore {m : MockDevice} {i : Instr} {s t : State} (other : ∀ addr value, i ≠ .wrreg addr value)
    (h : exec i s = .next t) (before : HoldsStore m s.device) : HoldsStore m t.device := by
  cases exec_busUse h with
  | silent _ bus => exact bus.device ▸ before
  | writes addr value command => exact absurd command (other addr value)
  | reads addr n _ bus => exact bus.device ▸ memRead_holdsStore (s := s.accept) before addr n
  | readsTwice first second n k _ bus =>
    exact bus.device ▸ memRead_holdsStore (memRead_holdsStore (s := s.accept) before first n) second k

/-- Settles O41: the store as a whole is kept, so the byte at every address is. -/
theorem otherCommandsStoreNothingInTheMock : Obligations.OtherCommandsStoreNothingInTheMock := by
  intro i s t m other mock plain h
  obtain ⟨m', device, log, mem, _⟩ := exec_holdsStore other h ⟨m, mock, rfl, rfl, plain⟩
  exact ⟨m', device, log, fun a => by rw [mem]⟩

end Sys2Proof.Proofs
end

section
/-! The decoder, said once: it accepts a word as the command whose fields the word has (Table 30-1, R80 to R85), and
else the word is one of those of R84; and the encoder writes those fields. -/

namespace Sys2Proof.Proofs

open Sys2Proof.Machine Sys2Proof.Laws

/-- The fields of `c` are those of the command: its `OP`, its must-be-zero fields zero, and its operands in their places
(Tables 30-1 and 30-4). -/
def Spells (c : CommandWord) : Instr → Prop
  | .wrreg addr value => opcodeField c = opWrreg ∧ transportMbz c = 0 ∧ addrField c = addr ∧ imm8Field c = value
  | .rdreg addr => opcodeField c = opRdreg ∧ payloadField c = 0 ∧ addrField c = addr
  | .rdblk addr count =>
    opcodeField c = opRdblk ∧ transportMbz c = 0 ∧ addrField c = addr ∧ imm8Field c = count ∧ count ≠ 0
  | .decode rng b0 b1 b2 b3 b4 b5 =>
    opcodeField c = opDecode ∧ decodeMbz c = 0 ∧ rngField c = rng ∧ c.extractLsb' 40 8 = b0 ∧
      c.extractLsb' 32 8 = b1 ∧ c.extractLsb' 24 8 = b2 ∧ c.extractLsb' 16 8 = b3 ∧ c.extractLsb' 8 8 = b4 ∧
      c.extractLsb' 0 8 = b5
  | .acquire => opcodeField c = opAcquire ∧ acquireMbz c = 0

/-- The branches of R85: the decoder accepts a word as a command whose fields it has, or rejects it, and then the word
is in one of the six cases of R84. -/
theorem decode_cases (c : CommandWord) :
    (∃ i, decode c = .ok i ∧ Spells c i) ∨ (∃ e, decode c = .error e ∧ illegalWord c) := by
  unfold decode
  split
  · split
    · exact .inl ⟨_, rfl, ‹_›, ‹_›, rfl, rfl⟩
    · exact .inr ⟨_, rfl, .inr (.inl ⟨.inl ‹_›, ‹_›⟩)⟩
  split
  · split
    · exact .inl ⟨_, rfl, ‹_›, ‹_›, rfl⟩
    · exact .inr ⟨_, rfl, .inr (.inr (.inl ⟨‹_›, ‹_›⟩))⟩
  split
  · split
    · split
      · exact .inr ⟨_, rfl, .inr (.inr (.inr (.inl ⟨‹_›, ‹_›⟩)))⟩
      · exact .inl ⟨_, rfl, ‹_›, ‹_›, rfl, rfl, ‹_›⟩
    · exact .inr ⟨_, rfl, .inr (.inl ⟨.inr ‹_›, ‹_›⟩)⟩
  split
  · split
    · exact .inl ⟨_, rfl, ‹_›, ‹_›, rfl, rfl, rfl, rfl, rfl, rfl, rfl⟩
    · exact .inr ⟨_, rfl, .inr (.inr (.inr (.inr (.inl ⟨‹_›, ‹_›⟩))))⟩
  split
  · split
    · exact .inl ⟨_, rfl, ‹_›, ‹_›⟩
    · exact .inr ⟨_, rfl, .inr (.inr (.inr (.inr (.inr ⟨‹_›, ‹_›⟩))))⟩
  · refine .inr ⟨_, rfl, .inl ?_⟩
    simp only [List.mem_cons, List.not_mem_nil, or_false, not_or]
    exact ⟨‹_›, ‹_›, ‹_›, ‹_›, ‹_›⟩

/-- A word that decodes to a command has the command's fields. -/
theorem spells_of_decode {c : CommandWord} {i : Instr} (h : decode c = .ok i) : Spells c i := by
  obtain ⟨j, accepted, fields⟩ | ⟨e, rejected, _⟩ := decode_cases c
  · cases h.symm.trans accepted
    exact fields
  · cases h.symm.trans rejected

/-- A word that the decoder rejects is in one of the six cases of R84. -/
theorem illegalWord_of_decode_error {c : CommandWord} {e : DecodeError} (h : decode c = .error e) :
    illegalWord c := by
  obtain ⟨i, accepted, _⟩ | ⟨_, _, illegal⟩ := decode_cases c
  · cases h.symm.trans accepted
  · exact illegal

/-- A word with the fields of a command decodes to it. -/
theorem decode_of_spells {c : CommandWord} {i : Instr} (h : Spells c i) : decode c = .ok i := by
  cases i with
  | wrreg addr value =>
    obtain ⟨op, mbz, rfl, rfl⟩ := h
    simp [decode, op, mbz]
  | rdreg addr =>
    obtain ⟨op, mbz, rfl⟩ := h
    simp [decode, op, mbz, opRdreg, opWrreg]
  | rdblk addr count =>
    obtain ⟨op, mbz, rfl, rfl, pos⟩ := h
    simpa [decode, op, mbz, opRdblk, opRdreg, opWrreg] using pos
  | decode rng b0 b1 b2 b3 b4 b5 =>
    obtain ⟨op, mbz, rfl, rfl, rfl, rfl, rfl, rfl, rfl⟩ := h
    simp [decode, op, mbz, opDecode, opRdblk, opRdreg, opWrreg]
  | acquire =>
    obtain ⟨op, mbz⟩ := h
    simp [decode, op, mbz, opAcquire, opDecode, opRdblk, opRdreg, opWrreg]

/-- A field holds `v` when the word's number says so: the converse of `toNat_of_field`. -/
theorem field_of_toNat {c : CommandWord} {k l : Nat} {v : BitVec l} (h : c.toNat / 2 ^ k % 2 ^ l = v.toNat) :
    c.extractLsb' k l = v :=
  BitVec.eq_of_toNat_eq (by rw [toNat_extract_eq_div_mod, h])

/-- The word of a well-formed command has the command's fields: each is a quotient and a remainder of the word's
number. -/
theorem spells_encode {i : Instr} (wf : i.wellFormed = true) : Spells (encode i) i := by
  cases i with
  | wrreg addr value =>
    have word := encode_wrreg_toNat addr value
    refine ⟨EncodedOpcode.wrreg addr value, field_of_toNat ?_, field_of_toNat ?_, field_of_toNat ?_⟩ <;> simp <;> omega
  | rdreg addr =>
    have word := encode_rdreg_toNat addr
    refine ⟨EncodedOpcode.rdreg addr, field_of_toNat ?_, field_of_toNat ?_⟩ <;> simp <;> omega
  | rdblk addr count =>
    have word := encode_rdblk_toNat addr count
    have pos : count ≠ 0 := by simpa [Instr.wellFormed] using wf
    refine ⟨EncodedOpcode.rdblk addr count, field_of_toNat ?_, field_of_toNat ?_, field_of_toNat ?_, pos⟩ <;> simp <;>
      omega
  | decode rng b0 b1 b2 b3 b4 b5 =>
    have word := encode_decode_toNat rng b0 b1 b2 b3 b4 b5
    refine ⟨EncodedOpcode.decode rng b0 b1 b2 b3 b4 b5, field_of_toNat ?_, field_of_toNat ?_, field_of_toNat ?_,
      field_of_toNat ?_, field_of_toNat ?_, field_of_toNat ?_, field_of_toNat ?_, field_of_toNat ?_⟩ <;> simp <;> omega
  | acquire => exact ⟨EncodedOpcode.acquire, by decide⟩

/-- Settles O2: the word has the fields of its command, and the decoder goes by the fields. -/
theorem decodeOfEncodeIsTheCommand : Obligations.DecodeOfEncodeIsTheCommand :=
  fun _ wf => decode_of_spells (spells_encode wf)

/-- The decoder gives well-formed commands only (R84 (d)). -/
theorem wellFormed_of_decode {c : CommandWord} {i : Instr} (h : decode c = .ok i) : i.wellFormed = true := by
  cases i with
  | rdblk addr count =>
    obtain ⟨_, _, _, _, pos⟩ := spells_of_decode h
    simpa [Instr.wellFormed] using pos
  | wrreg _ _ => rfl
  | rdreg _ => rfl
  | decode _ _ _ _ _ _ _ => rfl
  | acquire => rfl

/-- Settles O3: the fields cover the word, and the one check that a width does not make is the decoder's. -/
theorem encodeOfDecodeIsTheWord : Obligations.EncodeOfDecodeIsTheWord :=
  fun _ _ h => ⟨encode_of_decode h, wellFormed_of_decode h⟩

end Sys2Proof.Proofs
end

section
/-! The mask and match rows of the opcode table select the words that the decoder accepts (R85). -/

namespace Sys2Proof.Proofs

open Sys2Proof.Laws

/-- A word is accepted as the command of a mnemonic exactly when its `OP` is the mnemonic's, its must-be-zero field is
zero and, for RDBLK, its count is not (R85). -/
theorem exists_decode_iff (c : CommandWord) (m : String) :
    (∃ i, decode c = .ok i ∧ i.mnemonic = m) ↔
      (m = "WRREG" ∧ opcodeField c = opWrreg ∧ transportMbz c = 0) ∨
      (m = "RDREG" ∧ opcodeField c = opRdreg ∧ payloadField c = 0) ∨
      (m = "RDBLK" ∧ opcodeField c = opRdblk ∧ transportMbz c = 0 ∧ imm8Field c ≠ 0) ∨
      (m = "DECODE" ∧ opcodeField c = opDecode ∧ decodeMbz c = 0) ∨
      (m = "ACQUIRE" ∧ opcodeField c = opAcquire ∧ acquireMbz c = 0) := by
  constructor
  · rintro ⟨i, h, rfl⟩
    have fields := spells_of_decode h
    cases i with
    | wrreg addr value =>
      obtain ⟨op, mbz, _, _⟩ := fields
      exact .inl ⟨rfl, op, mbz⟩
    | rdreg addr =>
      obtain ⟨op, mbz, _⟩ := fields
      exact .inr (.inl ⟨rfl, op, mbz⟩)
    | rdblk addr count =>
      obtain ⟨op, mbz, _, rfl, pos⟩ := fields
      exact .inr (.inr (.inl ⟨rfl, op, mbz, pos⟩))
    | decode rng b0 b1 b2 b3 b4 b5 =>
      obtain ⟨op, mbz, _⟩ := fields
      exact .inr (.inr (.inr (.inl ⟨rfl, op, mbz⟩)))
    | acquire => exact .inr (.inr (.inr (.inr ⟨rfl, fields⟩)))
  · rintro (⟨rfl, op, mbz⟩ | ⟨rfl, op, mbz⟩ | ⟨rfl, op, mbz, pos⟩ | ⟨rfl, op, mbz⟩ | ⟨rfl, op, mbz⟩)
    · exact ⟨.wrreg _ _, decode_of_spells ⟨op, mbz, rfl, rfl⟩, rfl⟩
    · exact ⟨.rdreg _, decode_of_spells ⟨op, mbz, rfl⟩, rfl⟩
    · exact ⟨.rdblk _ _, decode_of_spells ⟨op, mbz, rfl, rfl, pos⟩, rfl⟩
    · exact ⟨.decode _ _ _ _ _ _ _, decode_of_spells ⟨op, mbz, rfl, rfl, rfl, rfl, rfl, rfl, rfl⟩, rfl⟩
    · exact ⟨.acquire, decode_of_spells ⟨op, mbz⟩, rfl⟩

/-- The mask of the field of `l` bits at bit `k`. -/
def fieldMask (k l : Nat) : CommandWord := (BitVec.allOnes l).setWidth 64 <<< k

@[simp] theorem fieldMask_getElem (k l : Nat) {i : Nat} (hi : i < 64) :
    (fieldMask k l)[i] = decide (k ≤ i ∧ i < k + l) := by
  simp only [fieldMask, BitVec.getElem_shiftLeft, BitVec.getElem_setWidth, BitVec.getLsbD_allOnes]
  grind

/-- Every row of the table masks `OP` and one must-be-zero field below it, and its pattern has an `OP` and zeros. -/
theorem and_rowMask_eq_iff {c : CommandWord} {op : Byte} {k l : Nat} (below : k + l ≤ 56) :
    c &&& (fieldMask 56 8 ||| fieldMask k l) = op.setWidth 64 <<< 56 ↔ opcodeField c = op ∧ c.extractLsb' k l = 0 := by
  constructor
  · intro h
    constructor
    · ext i hi
      have bit := congrArg (·.getLsbD (56 + i)) h
      simpa [opcodeField, hi, show 56 + i < 64 by omega] using bit
    · ext i hi
      have bit := congrArg (·.getLsbD (k + i)) h
      simpa [hi, show k + i < 64 by omega, show k + i < 56 by omega] using bit
  · rintro ⟨rfl, mbz⟩
    ext i hi
    by_cases hop : 56 ≤ i
    · simp [opcodeField, hop, hi, Nat.not_lt.mpr hop, show i - 56 < 8 by omega]
    by_cases hfield : k ≤ i ∧ i < k + l
    · have zero : c.getLsbD i = false := by
        have bit := congrArg (·.getLsbD (i - k)) mbz
        simpa [show k + (i - k) = i by omega, show i - k < l by omega] using bit
      simp [BitVec.getLsbD_eq_getElem hi ▸ zero, Nat.not_le.mp hop]
    · simp [hop, hfield, Nat.not_le.mp hop]

/-- A word selects a row of that shape by the two fields, and RDBLK by its count too (R85). -/
theorem selects_iff {row : OpcodeRow} {c : CommandWord} (op : Byte) (k l : Nat) (below : k + l ≤ 56)
    (mask : row.mask = fieldMask 56 8 ||| fieldMask k l) (pattern : row.pattern = op.setWidth 64 <<< 56) :
    row.selects c = true ↔
      (opcodeField c = op ∧ c.extractLsb' k l = 0) ∧ (row.mnemonic = "RDBLK" → imm8Field c ≠ 0) := by
  rw [OpcodeRow.selects, mask, pattern, Bool.and_eq_true, beq_iff_eq, and_rowMask_eq_iff below]
  simp [imp_iff_not_or]

/-- Settles O4, row by row: the mask of the row reads the fields by which the decoder accepts the row's command. -/
theorem decoderAgreesWithTheOpcodeRows : Obligations.DecoderAgreesWithTheOpcodeRows := by
  intro c row mem
  rw [exists_decode_iff]
  simp only [opcodeRows, List.mem_cons, List.not_mem_nil, or_false] at mem
  obtain rfl | rfl | rfl | rfl | rfl := mem
  · rw [selects_iff opWrreg 8 40 (by decide) (by decide) (by decide)]
    simp [transportMbz]
  · rw [selects_iff opRdreg 0 48 (by decide) (by decide) (by decide)]
    simp [payloadField]
  · rw [selects_iff opRdblk 8 40 (by decide) (by decide) (by decide)]
    simp [transportMbz, and_assoc]
  · rw [selects_iff opDecode 50 6 (by decide) (by decide) (by decide)]
    simp [decodeMbz]
  · rw [selects_iff opAcquire 0 56 (by decide) (by decide) (by decide)]
    simp [acquireMbz]

end Sys2Proof.Proofs
end

section
/-! The illegal words of R84 are the words that the decoder rejects, and what a step answers to them (R192). -/

namespace Sys2Proof.Proofs

open Sys2Proof.Machine Sys2Proof.Laws

/-- A word with the fields of a command is in none of the six cases of R84. -/
theorem not_illegalWord_of_spells {c : CommandWord} {i : Instr} (h : Spells c i) : ¬ illegalWord c := by
  cases i with
  | wrreg addr value =>
    obtain ⟨op, mbz, _⟩ := h
    simp only [opcodeField, opWrreg, transportMbz] at op mbz
    simp [illegalWord, op, mbz]
  | rdreg addr =>
    obtain ⟨op, mbz, _⟩ := h
    simp only [opcodeField, opRdreg, payloadField] at op mbz
    simp [illegalWord, op, mbz]
  | rdblk addr count =>
    obtain ⟨op, mbz, _, rfl, pos⟩ := h
    simp only [opcodeField, opRdblk, transportMbz, imm8Field] at op mbz pos
    simpa [illegalWord, op, mbz] using pos
  | decode rng b0 b1 b2 b3 b4 b5 =>
    obtain ⟨op, mbz, _⟩ := h
    simp only [opcodeField, opDecode, decodeMbz] at op mbz
    simp [illegalWord, op, mbz]
  | acquire =>
    obtain ⟨op, mbz⟩ := h
    simp only [opcodeField, opAcquire, acquireMbz] at op mbz
    simp [illegalWord, op, mbz]

/-- The illegal words of R84 are exactly the words that the decoder rejects. -/
theorem illegalWord_iff {c : CommandWord} : illegalWord c ↔ ∃ e, decode c = .error e := by
  constructor
  · intro illegal
    cases h : decode c with
    | ok i => exact absurd illegal (not_illegalWord_of_spells (spells_of_decode h))
    | error e => exact ⟨e, rfl⟩
  · rintro ⟨e, h⟩
    exact illegalWord_of_decode_error h

/-- An idle block takes an illegal word from its port and answers `IllegalCommand`; nothing else changes (R84, R192). -/
theorem step_illegal {s : State} {c : CommandWord} (idle : s.block.seq = .idle) (port : s.port = some c)
    (illegal : illegalWord c) :
    step s = .next { s with port := none, history := s.history ++ [⟨c, ⟨.fault .illegalCommand, []⟩⟩] } := by
  obtain ⟨e, h⟩ := illegalWord_iff.mp illegal
  simp only [step, idle, idleStep, port, runWord, h, State.rejectIllegal, State.takeFault, State.respond, State.accept]
  simp [← idle]

/-- DECODE with range code 3 on an idle block answers `RangeReserved`; nothing else changes (R137). -/
theorem exec_decode_reserved {s : State} (idle : s.block.seq = .idle) (b0 b1 b2 b3 b4 b5 : Byte) :
    exec (.decode 3 b0 b1 b2 b3 b4 b5) s = .next { s with
      history := s.history ++ [⟨encode (.decode 3 b0 b1 b2 b3 b4 b5), ⟨.fault .rangeReserved, []⟩⟩] } := by
  simp [exec, execDecode, State.finishSample, RangeSetting.ofCode, State.takeFault, State.respond, State.accept, ← idle]

/-- Settles O5: the six cases are what the decoder rejects, and a step runs what it accepts. -/
theorem illegalWordsRaiseIllegalCommand : Obligations.IllegalWordsRaiseIllegalCommand := by
  intro s c idle port
  refine ⟨step_illegal idle port, fun legal => ?_, fun op mbz rng => ?_⟩
  · cases h : decode c with
    | ok i => exact ⟨i, rfl, wellFormed_of_decode h, stepRunsTheDecodedCommand s c i idle port h⟩
    | error e => exact absurd (illegalWord_iff.mpr ⟨e, h⟩) legal
  · have fields : Spells c (.decode 3 _ _ _ _ _ _) := ⟨op, mbz, rng, rfl, rfl, rfl, rfl, rfl, rfl⟩
    have h := decode_of_spells fields
    refine ⟨not_illegalWord_of_spells fields, ?_⟩
    rw [stepRunsTheDecodedCommand s c _ idle port h, exec_decode_reserved (s := { s with port := none }) idle,
      encode_of_decode h]

end Sys2Proof.Proofs
end

section
/-! The 12 data bytes of DECODE and ACQUIRE (R87). -/

namespace Sys2Proof.Proofs

open Sys2Proof.Machine Sys2Proof.Laws

/-- The bytes of three packed lanes are the bytes of the lanes, each most significant first (R87, R135). -/
theorem packedBytes_packXyz (x y z : Lane) :
    packedBytes (packXyz x y z) =
      [x.extractLsb' 8 8, x.extractLsb' 0 8, y.extractLsb' 8 8, y.extractLsb' 0 8, z.extractLsb' 8 8,
       z.extractLsb' 0 8] := by
  have word : (packXyz x y z).toNat = (x.toNat * 2 ^ 16 + y.toNat) * 2 ^ 16 + z.toNat := by
    change (x ++ y ++ z : BitVec (16 + 16 + 16)).toNat = _
    rw [toNat_append_eq_add, toNat_append_eq_add]
  simp only [packedBytes, List.cons.injEq, and_true, BitVec.toNat_eq, toNat_extract_eq_div_mod, word]
  omega

/-- A DECODE or an ACQUIRE that ends with OK answers with the sample ports of the block it leaves (R87). -/
theorem exec_ok_data {i : Instr} {s t : State} {data : List Byte} (command : writesSample i)
    (h : exec i s = .next t) (ok : t.history = s.history ++ [⟨encode i, ⟨.ok, data⟩⟩]) :
    data = packedBytes t.block.rawPacked ++ packedBytes t.block.physPacked := by
  cases exec_ran h with
  | hung _ _ history => simp [history] at ok
  | fault f _ _ _ history => simp [history] at ok
  | plain _ _ _ _ _ _ notAcquire notDecode =>
    obtain ⟨rng, b0, b1, b2, b3, b4, b5, e⟩ | e := command
    · exact absurd e (notDecode rng b0 b1 b2 b3 b4 b5)
    · exact absurd e notAcquire
  | stored _ _ _ _ _ history => simpa using (history.symm.trans ok).symm

/-- Settles O26: the response carries the two ports, and a port's bytes are its lanes' bytes. -/
theorem sampleResponseCarriesTheNewRegisters : Obligations.SampleResponseCarriesTheNewRegisters := by
  intro i s t data command h ok
  have ports := exec_ok_data command h ok
  refine ⟨ports, ports.trans ?_⟩
  rw [Block.rawPacked, Block.physPacked, packedBytes_packXyz, packedBytes_packXyz]
  rfl

end Sys2Proof.Proofs
end

section
/-! Under the fairness premise of R232 every accepted word is answered (R86). -/

namespace Sys2Proof.Proofs

open Sys2Proof.Machine Sys2Proof.Laws

/-- The next `n` primitives return (R232). -/
def ReturnsFor (n : Nat) (d : Device) : Prop := ∀ j < n, d.returnsAt j

theorem ReturnsFor.next {n : Nat} {d : Device} (h : ReturnsFor (n + 1) d) : d.returnsAt 0 := h 0 n.succ_pos

theorem ReturnsFor.write {n : Nat} {d : Device} (h : ReturnsFor (n + 1) d) (bytes : List Byte) (hold : Bool) :
    ReturnsFor n (d.write bytes hold).2 :=
  fun j hj => write_shift (h (j + 1) (Nat.succ_lt_succ hj)) bytes hold

theorem ReturnsFor.read {n : Nat} {d : Device} (h : ReturnsFor (n + 1) d) (k : Nat) : ReturnsFor n (d.read k).2 :=
  fun j hj => read_shift (h (j + 1) (Nat.succ_lt_succ hj)) k

/-- A register read transaction returns if its two primitives do (R52). -/
theorem memRead_returns {n : Nat} {s : State} (h : ReturnsFor (n + 2) s.device) (addr : Byte) (k : Nat) :
    (s.memRead addr k).1 ≠ .never := by
  obtain ⟨_, e⟩ | ⟨_, e⟩ | ⟨never, _⟩ := memRead_cases s addr k
  · rw [e]
    exact read_returns (h.write [addr] true).next k
  · rw [e]
    simp
  · exact absurd never (write_returns h.next [addr] true)

/-- A register read transaction that completes uses up two primitives (R52). -/
theorem memRead_ok_returnsFor {n : Nat} {s t : State} {addr : Byte} {k : Nat} {bytes : List Byte}
    (h : ReturnsFor (n + 2) s.device) (ok : s.memRead addr k = (.ok bytes, t)) : ReturnsFor n t.device := by
  obtain ⟨_, e⟩ | ⟨_, e⟩ | ⟨_, e⟩ := memRead_cases s addr k
  · obtain rfl : _ = t := congrArg Prod.snd (e.symm.trans ok)
    exact (h.write [addr] true).read k
  · simp [e] at ok
  · simp [e] at ok

/-- A command has ended after a transaction that returned, if it ends when the transaction completed. -/
theorem afterTransaction_idle {cmd : CommandWord} {r : BusReply × State} {next : List Byte → State → State}
    (returned : r.1 ≠ .never) (hn : ∀ bytes u, r = (.ok bytes, u) → (next bytes u).block.seq = .idle) :
    (afterTransaction cmd r next).block.seq = .idle := by
  rcases r with ⟨bytes | _ | _, u⟩
  · exact hn bytes u rfl
  · rfl
  · exact absurd rfl returned

theorem finishSample_idle (s : State) (cmd : CommandWord) (rng : RangeCode) (burst : Burst) :
    (s.finishSample cmd rng burst).block.seq = .idle := by
  obtain ⟨_, e⟩ | ⟨_, _, e⟩ := finishSample_cases s cmd rng burst
  · rw [e]
    rfl
  · rw [e]
    rfl

/-- A command whose primitives return ends (R232). -/
theorem exec_idle {i : Instr} {s t : State} (returns : s.busReturns) (h : exec i s = .next t) :
    t.block.seq = .idle := by
  have four : ReturnsFor 4 s.accept.device := returns
  cases i with
  | wrreg addr value =>
    cases h
    exact afterTransaction_idle (write_returns four.next [addr, value] false) fun _ _ _ => rfl
  | rdreg addr =>
    cases h
    exact afterTransaction_idle (memRead_returns four addr 1) fun _ _ _ => rfl
  | rdblk addr count =>
    cases h
    split
    · rfl
    · exact afterTransaction_idle (memRead_returns four addr count.toNat) fun _ _ _ => rfl
  | decode rng b0 b1 b2 b3 b4 b5 =>
    cases h
    exact finishSample_idle _ _ _ _
  | acquire =>
    cases h
    refine afterTransaction_idle (memRead_returns four _ 6) fun burst u burstRead => ?_
    have two : ReturnsFor 2 u.device := memRead_ok_returnsFor four burstRead
    exact afterTransaction_idle (memRead_returns two _ 1) fun _ v _ => finishSample_idle v _ _ _

/-- A command that has ended has given one response (R86). -/
theorem exec_responds {i : Instr} {s t : State} (h : exec i s = .next t) (ended : t.block.seq = .idle) :
    ∃ response, t.history = s.history ++ [⟨encode i, response⟩] := by
  cases exec_ran h with
  | hung _ busy => simp [busy] at ended
  | fault _ _ _ _ history => exact ⟨_, history⟩
  | plain _ _ _ _ history => exact ⟨_, history⟩
  | stored _ _ _ _ _ history => exact ⟨_, history⟩

/-- An idle block whose primitives return takes the word on its port, ends, and has answered that word (R86, R232). -/
theorem step_answers {s : State} {c : CommandWord} (idle : s.block.seq = .idle) (port : s.port = some c)
    (returns : s.busReturns) :
    ∃ t response, step s = .next t ∧ t.block.seq = .idle ∧ t.port = none ∧
      t.history = s.history ++ [⟨c, response⟩] := by
  cases h : decode c with
  | error e =>
    have illegal := step_illegal idle port (illegalWord_of_decode_error h)
    exact ⟨_, _, illegal, idle, rfl, rfl⟩
  | ok i =>
    obtain ⟨t, ran⟩ := exec_completes i { s with port := none }
    have ended := exec_idle (s := { s with port := none }) returns ran
    obtain ⟨response, history⟩ := exec_responds ran ended
    rw [encode_of_decode h] at history
    have taken : t.port = none := by rw [exec_frame ran]
    exact ⟨t, response, (stepRunsTheDecodedCommand s c i idle port h).trans ran, ended, taken, history⟩

/-- The one response a step records has the shape of R86. -/
theorem step_response_shaped {s t : State} {x : Exchange} (h : step s = .next t)
    (history : t.history = s.history ++ [x]) : x.shaped := by
  obtain same | ⟨y, added, shaped⟩ := step_history h
  · simp [same] at history
  · obtain rfl : y = x := by simpa using added.symm.trans history
    exact shaped

/-- Table 30-3 has no code of 4 or more. -/
theorem status_code_lt (status : Status) : status.code.toNat < 4 := by
  cases status with
  | ok => decide
  | fault f => cases f <;> decide

/-- Settles O29: the step answers the word; the shape of the answer and the bound of the trace hold of every step. -/
theorem everyAcceptedWordGetsOneResponse : Obligations.EveryAcceptedWordGetsOneResponse := by
  intro s c idle port returns
  obtain ⟨t, response, h, ended, taken, history⟩ := step_answers idle port returns
  obtain ⟨events, trace, atMost⟩ := step_trace_grows h
  exact ⟨t, response, events, h, ended, taken, history, step_response_shaped h history,
    status_code_lt response.status, trace, atMost⟩

end Sys2Proof.Proofs
end

section
/-! A transport command from acceptance to response: the exact state in which it ends for each answer of the device
(R110 to R112), and the words that run it or are refused (R84, R85). -/

namespace Sys2Proof.Proofs

open Sys2Proof.Machine Sys2Proof.Laws

/-- `BusWrite` once the device's answer is known (R50). -/
theorem busWrite_of_reply {s : State} {d : Device} {bytes : List Byte} {hold : Bool} {r : BusReply} (dev : DevAddr)
    (h : s.device.write bytes hold = (r, d)) :
    s.busWrite dev bytes hold = (r, { s with
      block := { s.block with busHeld := heldAfterWrite hold r s.block.busHeld }
      device := d
      trace := s.trace ++ [.write dev bytes hold r] }) := by
  simp only [State.busWrite, h]

/-- `MemRead` whose address write fails: no read is issued (R52). -/
theorem memRead_of_select_fail {s : State} {d : Device} {addr : Byte} (n : Nat)
    (h : s.device.write [addr] true = (.fail, d)) :
    s.memRead addr n = (.fail, { s with
      block := { s.block with busHeld := false }
      device := d
      trace := s.trace ++ [.write s.config.devAddr [addr] true .fail] }) := by
  simp only [State.memRead, busWrite_of_reply _ h, heldAfterWrite_fail]

/-- `MemRead` whose address write completes: its answer is that of the read it issues next (R52). -/
theorem memRead_of_selected {s : State} {d₁ d₂ : Device} {addr : Byte} {n : Nat} {r : BusReply}
    (select : s.device.write [addr] true = (.ok [], d₁)) (read : d₁.read n = (r, d₂)) :
    s.memRead addr n = (r, { s with
      block := { s.block with busHeld := heldAfterRead r true }
      device := d₂
      trace := s.trace ++ [.write s.config.devAddr [addr] true (.ok []), .read s.config.devAddr n r] }) := by
  simp [State.memRead, busWrite_of_reply _ select, State.busRead, read]

/-- The machine after a command that used the bus and was answered: SEQ idle, the bus released, the device, the trace
and the responses advanced, and every other field as before (R113). -/
def afterResponse (i : Instr) (d : Device) (events : List BusEvent) (response : Response) (s : State) : State :=
  { s with
    block := { s.block with seq := .idle, busHeld := false }
    device := d
    trace := s.trace ++ events
    history := s.history ++ [⟨encode i, response⟩] }

theorem exec_wrreg (addr value : Byte) (s : State) :
    exec (.wrreg addr value) s =
      .next (afterTransaction (encode (.wrreg addr value)) (s.accept.memWrite addr value) fun _ t =>
        t.respond (encode (.wrreg addr value)) .ok []) := rfl

/-- WRREG whose write completes (R110). -/
theorem exec_wrreg_of_ok {addr value : Byte} {s : State} {d : Device}
    (h : s.device.write [addr, value] false = (.ok [], d)) :
    exec (.wrreg addr value) s = .next (afterResponse (.wrreg addr value) d
      [.write s.config.devAddr [addr, value] false (.ok [])] ⟨.ok, []⟩ s) := by
  rw [exec_wrreg, State.memWrite, busWrite_of_reply (s := s.accept) _ h]
  rfl

/-- WRREG whose write fails (R110). -/
theorem exec_wrreg_of_fail {addr value : Byte} {s : State} {d : Device}
    (h : s.device.write [addr, value] false = (.fail, d)) :
    exec (.wrreg addr value) s = .next (afterResponse (.wrreg addr value) d
      [.write s.config.devAddr [addr, value] false .fail] ⟨.fault .transportError, []⟩ s) := by
  rw [exec_wrreg, State.memWrite, busWrite_of_reply (s := s.accept) _ h]
  rfl

/-- The command is one register read transaction of `n` bytes from `addr`, answered with all its bytes. -/
def IsRead (i : Instr) (addr : Byte) (n : Nat) : Prop :=
  ∀ s, exec i s = .next (afterTransaction (encode i) (s.accept.memRead addr n) fun bytes t =>
    t.respond (encode i) .ok bytes)

/-- RDREG reads one byte (R111). -/
theorem isRead_rdreg (addr : Byte) : IsRead (.rdreg addr) addr 1 := fun _ => rfl

/-- RDBLK with a legal count reads that many bytes (R112). -/
theorem isRead_rdblk (addr : Byte) {count : Byte} (pos : count ≠ 0) : IsRead (.rdblk addr count) addr count.toNat :=
  fun s => by rw [exec, execRdblk, if_neg pos]

/-- A read command whose two primitives complete (R111, R112). -/
theorem IsRead.exec_of_ok {i : Instr} {addr : Byte} {n : Nat} {bytes : List Byte} {s : State} {d₁ d₂ : Device}
    (hi : IsRead i addr n) (select : s.device.write [addr] true = (.ok [], d₁)) (read : d₁.read n = (.ok bytes, d₂)) :
    exec i s = .next (afterResponse i d₂
      [.write s.config.devAddr [addr] true (.ok []), .read s.config.devAddr n (.ok bytes)] ⟨.ok, bytes⟩ s) := by
  rw [hi, memRead_of_selected (s := s.accept) select read]
  rfl

/-- A read command whose address write fails issues no read (R111, R112). -/
theorem IsRead.exec_of_select_fail {i : Instr} {addr : Byte} {n : Nat} {s : State} {d : Device}
    (hi : IsRead i addr n) (select : s.device.write [addr] true = (.fail, d)) :
    exec i s = .next (afterResponse i d
      [.write s.config.devAddr [addr] true .fail] ⟨.fault .transportError, []⟩ s) := by
  rw [hi, memRead_of_select_fail (s := s.accept) n select]
  rfl

/-- A read command whose read fails (R111, R112). -/
theorem IsRead.exec_of_read_fail {i : Instr} {addr : Byte} {n : Nat} {s : State} {d₁ d₂ : Device}
    (hi : IsRead i addr n) (select : s.device.write [addr] true = (.ok [], d₁)) (read : d₁.read n = (.fail, d₂)) :
    exec i s = .next (afterResponse i d₂
      [.write s.config.devAddr [addr] true (.ok []), .read s.config.devAddr n .fail]
      ⟨.fault .transportError, []⟩ s) := by
  rw [hi, memRead_of_selected (s := s.accept) select read]
  rfl

/-- An idle block takes a word with the fields of a command from its port and runs the command (R26, R85). -/
theorem step_of_spells {s : State} {c : CommandWord} {i : Instr} (idle : s.block.seq = .idle)
    (port : s.port = some c) (fields : Spells c i) : step s = exec i { s with port := none } :=
  stepRunsTheDecodedCommand s c i idle port (decode_of_spells fields)

/-- Settles O10: the command by the answer of its one write, the word by its fields or by R84 (b). -/
theorem wrregWritesOneRegister : Obligations.WrregWritesOneRegister := by
  refine ⟨fun _ _ _ _ => exec_wrreg_of_ok, fun _ _ _ _ => exec_wrreg_of_fail, fun s c idle port op => ⟨?_, ?_⟩⟩
  · intro mbz
    exact step_of_spells idle port ⟨op, mbz, rfl, rfl⟩
  · intro mbz
    exact step_illegal idle port (.inr (.inl ⟨.inl op, mbz⟩))

/-- Settles O11: RDREG is a read command; the word by its fields or by R84 (c). -/
theorem rdregReadsOneByte : Obligations.RdregReadsOneByte := by
  refine ⟨fun addr _ _ _ _ => (isRead_rdreg addr).exec_of_ok, fun addr _ _ => (isRead_rdreg addr).exec_of_select_fail,
    fun addr _ _ _ => (isRead_rdreg addr).exec_of_read_fail, fun s c idle port op => ⟨?_, ?_⟩⟩
  · intro mbz
    exact step_of_spells idle port ⟨op, mbz, rfl⟩
  · intro mbz
    exact step_illegal idle port (.inr (.inr (.inl ⟨op, mbz⟩)))

/-- Two read commands of the same bytes differ in the word they answer alone. -/
theorem IsRead.exec_agree {i j : Instr} {addr : Byte} {n : Nat} {s t u : State} (hi : IsRead i addr n)
    (hj : IsRead j addr n) (ht : exec i s = .next t) (hu : exec j s = .next u) :
    t.trace = u.trace ∧ t.block = u.block ∧ t.device = u.device ∧
      (t.history.drop s.history.length).map (·.response) = (u.history.drop s.history.length).map (·.response) := by
  rw [hi] at ht
  rw [hj] at hu
  cases ht
  cases hu
  rcases hm : s.accept.memRead addr n with ⟨bytes | _ | _, v⟩
  · obtain ⟨_, _, history, _⟩ := memRead_frame hm
    simp [history]
  · obtain ⟨_, _, history, _⟩ := memRead_frame hm
    simp [history]
  · exact ⟨rfl, rfl, rfl, rfl⟩

/-- Settles O12: RDBLK is a read command, and with a count of 1 the one that RDREG is; the word by its fields or by
R84 (b) or (d). -/
theorem rdblkReadsABurst : Obligations.RdblkReadsABurst := by
  refine ⟨fun addr count bytes s d₁ d₂ pos select read => ⟨read_ok_length (congrArg Prod.fst read), ?_⟩,
    fun addr _ _ _ pos => (isRead_rdblk addr pos).exec_of_select_fail,
    fun addr _ _ _ _ pos => (isRead_rdblk addr pos).exec_of_read_fail, fun s c idle port op => ⟨?_, ?_⟩,
    fun addr _ _ _ => (isRead_rdblk addr (by decide)).exec_agree (isRead_rdreg addr)⟩
  · exact (isRead_rdblk addr pos).exec_of_ok select read
  · intro mbz pos
    exact step_of_spells idle port ⟨op, mbz, rfl, rfl, pos⟩
  · rintro (mbz | zero)
    · exact step_illegal idle port (.inr (.inl ⟨.inr op, mbz⟩))
    · exact step_illegal idle port (.inr (.inr (.inr (.inl ⟨op, zero⟩))))

/-- The seven, SEQ and BUS_HELD are the whole block (R20, Table 10-1). -/
theorem block_eq_of_sampleOf {b b' : Block} (sample : b.sampleOf = b'.sampleOf) (seq : b.seq = b'.seq)
    (held : b.busHeld = b'.busHeld) : b = b' := by
  cases b
  cases b'
  simp_all [Block.sampleOf]

/-- Settles O14: a command that stores no sample leaves the seven, and one that has ended leaves the block at rest. -/
theorem transportCommandsKeepTheBlock : Obligations.TransportCommandsKeepTheBlock := by
  intro i s t notDecode notAcquire h
  have sample : t.block.sampleOf = s.block.sampleOf := by
    obtain same | ⟨⟨_, _, _, _, _, _, _, e⟩ | e, _⟩ := exec_sample h
    · exact same
    · exact absurd e (notDecode _ _ _ _ _ _ _)
    · exact absurd e notAcquire
  refine ⟨sample, fun ended rest => ?_, exec_frame h⟩
  obtain ⟨idle, released⟩ := rest
  exact block_eq_of_sampleOf sample (ended.trans idle.symm) ((exec_released released h ended).trans released.symm)

/-- WRREG adds one write frame to the trace (R88, R115). -/
theorem exec_wrreg_trace {addr value : Byte} {s t : State} (h : exec (.wrreg addr value) s = .next t) :
    ∃ reply, t.trace = s.trace ++ [.write s.config.devAddr [addr, value] false reply] := by
  have bus : BusAs (s.accept.memWrite addr value).2 t := by
    cases h
    exact afterTransaction_bus fun _ _ => ⟨rfl, rfl⟩
  exact ⟨_, bus.trace⟩

/-- A read command adds its address write alone, which did not complete, or one whole read frame (R89, R115). -/
theorem IsRead.exec_trace {i : Instr} {addr : Byte} {n : Nat} {s t : State} (hi : IsRead i addr n)
    (h : exec i s = .next t) :
    (∃ reply : BusReply, (∀ bytes, reply ≠ .ok bytes) ∧
      t.trace = s.trace ++ [.write s.config.devAddr [addr] true reply]) ∨
    (∃ reply : BusReply, t.trace = s.trace ++
      [.write s.config.devAddr [addr] true (.ok []), .read s.config.devAddr n reply]) := by
  have bus : BusAs (s.accept.memRead addr n).2 t := by
    rw [hi] at h
    cases h
    exact afterTransaction_bus fun _ _ => ⟨rfl, rfl⟩
  rcases hm : s.accept.memRead addr n with ⟨reply, u⟩
  rw [bus.trace, hm]
  obtain trace | ⟨incomplete, trace⟩ := memRead_trace hm
  · exact .inr ⟨reply, trace⟩
  · exact .inl ⟨reply, fun bytes ok => by simp [ok] at incomplete, trace⟩

/-- Settles O15: the write frame of WRREG, the read frame of a read command, and none for a count of 0. -/
theorem oneTransactionPerTransportCommand : Obligations.OneTransactionPerTransportCommand := by
  refine ⟨fun _ _ _ _ => exec_wrreg_trace, ?_, ?_⟩
  · rintro i addr count n s t (⟨rfl, rfl⟩ | ⟨rfl, pos, rfl⟩)
    · exact (isRead_rdreg addr).exec_trace
    · exact (isRead_rdblk addr pos).exec_trace
  · intro addr s t h
    cases h
    rfl

end Sys2Proof.Proofs
end

section
/-! The sample pipeline on values (R130 to R135): the unpack is an arithmetic shift right by 2, the scaling a shift left
that loses no bit, and the packing keeps the order of the bus. -/

namespace Sys2Proof.Proofs

open Sys2Proof.Machine Sys2Proof.Laws

/-- Stage 1 on numbers: the two low bits of the axis word are dropped (R130). -/
theorem unpack14bSigned_toNat (hi lo : Byte) : (unpack14bSigned hi lo).toNat = hi.toNat * 64 + lo.toNat / 4 := by
  have word : (axisWord hi lo).toNat = hi.toNat * 2 ^ 8 + lo.toNat := toNat_append_eq_add hi lo
  rw [unpack14bSigned, toNat_extract_eq_div_mod, word]
  omega

/-- The sign extension of a raw value is the axis word shifted right arithmetically by 2 (R130). -/
theorem sext16_unpack14bSigned (hi lo : Byte) :
    sext16 (unpack14bSigned hi lo) = (hi ++ lo : Lane).sshiftRight 2 := by
  ext i lt
  simp only [sext16, unpack14bSigned, axisWord, BitVec.getElem_signExtend, BitVec.getElem_sshiftRight]
  split
  · rw [dif_pos (by omega), BitVec.getElem_extractLsb', BitVec.getLsbD_eq_getElem]
  · rw [dif_neg (by omega)]
    simp [BitVec.msb_eq_getLsbD_last]

theorem sext16_toInt (raw : Raw) : (sext16 raw).toInt = raw.toInt := BitVec.toInt_signExtend_of_le (by decide)

/-- A raw value fits 14 bits (R21). -/
theorem raw_toInt_bounds (raw : Raw) : -8192 ≤ raw.toInt ∧ raw.toInt ≤ 8191 := by
  have lower := raw.le_toInt
  have upper := raw.toInt_lt
  omega

/-- The unpack divides by 4 and rounds toward minus infinity (R130). -/
theorem unpack14bSigned_toInt (hi lo : Byte) : (unpack14bSigned hi lo).toInt = (hi ++ lo : Lane).toInt / 4 := by
  rw [← sext16_toInt, sext16_unpack14bSigned, BitVec.toInt_sshiftRight, Int.shiftRight_eq_div_pow]
  rfl

/-- The unpack on the real numbers that the patterns stand for (R130, R134 (1)). -/
theorem unpack14bSigned_toInt_eq_floor (hi lo : Byte) :
    (unpack14bSigned hi lo).toInt = ⌊((hi ++ lo : Lane).toInt : ℚ) / 4⌋ := by
  rw [unpack14bSigned_toInt]
  exact (Rat.floor_intCast_div_natCast _ 4).symm

/-- The two low bits of the axis word do not affect the unpack (R130). -/
theorem unpack14bSigned_congr (hi : Byte) {lo lo' : Byte} (h : lo.extractLsb' 2 6 = lo'.extractLsb' 2 6) :
    unpack14bSigned hi lo = unpack14bSigned hi lo' := by
  rw [BitVec.toNat_eq, toNat_extract_eq_div_mod, toNat_extract_eq_div_mod] at h
  rw [BitVec.toNat_eq, unpack14bSigned_toNat, unpack14bSigned_toNat]
  omega

/-- Every raw value is the unpack of each of the four words that have it in bits 15:2 (R130). -/
theorem unpack14bSigned_of_raw (raw : Raw) (low : BitVec 2) :
    unpack14bSigned (raw.extractLsb' 6 8) (raw.extractLsb' 0 6 ++ low : Byte) = raw := by
  have bytes : (raw.extractLsb' 0 6 ++ low : Byte).toNat = (raw.extractLsb' 0 6).toNat * 2 ^ 2 + low.toNat :=
    toNat_append_eq_add _ _
  rw [BitVec.toNat_eq, unpack14bSigned_toNat, bytes, toNat_extract_eq_div_mod, toNat_extract_eq_div_mod]
  omega

/-- A word is one of those four if its unpack is the raw value (R130). -/
theorem eq_of_unpack14bSigned_eq {raw : Raw} {hi lo : Byte} (h : unpack14bSigned hi lo = raw) :
    hi = raw.extractLsb' 6 8 ∧ lo = (raw.extractLsb' 0 6 ++ lo.extractLsb' 0 2 : Byte) := by
  have bytes : (raw.extractLsb' 0 6 ++ lo.extractLsb' 0 2 : Byte).toNat =
      (raw.extractLsb' 0 6).toNat * 2 ^ 2 + (lo.extractLsb' 0 2).toNat := toNat_append_eq_add _ _
  rw [BitVec.toNat_eq, unpack14bSigned_toNat] at h
  rw [BitVec.toNat_eq, BitVec.toNat_eq, bytes]
  simp only [toNat_extract_eq_div_mod]
  omega

/-- Settles O17: the unpack as a field of the word, as the arithmetic shift, as the floor, and its four preimages. -/
theorem unpackIsTheArithmeticShift : Obligations.UnpackIsTheArithmeticShift := by
  refine ⟨fun hi lo => ⟨rfl, ?_, sext16_unpack14bSigned hi lo, unpack14bSigned_toInt_eq_floor hi lo,
    raw_toInt_bounds _⟩, fun hi _ _ => unpack14bSigned_congr hi, unpack14bSigned_of_raw,
    fun _ _ _ => eq_of_unpack14bSigned_eq⟩
  rw [← sext16_unpack14bSigned]
  ext i lt
  rw [sext16, BitVec.getElem_extractLsb', BitVec.getLsbD_signExtend]
  simp [lt, show i < 16 by omega]

/-- A range is that of its code and of no other (R44, R132). -/
theorem ofCode_eq_some_iff {rng : RangeCode} {r : RangeSetting} : RangeSetting.ofCode rng = some r ↔ rng = r.code := by
  cases r with
  | g2 => revert rng; decide
  | g4 => revert rng; decide
  | g8 => revert rng; decide

/-- Two ranges have two codes (R44). -/
theorem eq_of_code_eq {r r' : RangeSetting} (h : r.code = r'.code) : r = r' :=
  Option.some_inj.mp ((ofCode_eq_some_iff.mpr rfl).symm.trans (ofCode_eq_some_iff.mpr h))

/-- Code 3 alone is reserved (R44, R132). -/
theorem ofCode_eq_none_iff {rng : RangeCode} : RangeSetting.ofCode rng = none ↔ rng = 3 := by
  revert rng
  decide

/-- The shift of a range makes up for its divisor (R132, R133). -/
theorem divisor_mul_two_pow_shift (r : RangeSetting) : r.divisor * 2 ^ r.shift = 4096 := by
  cases r <;> rfl

theorem divisor_pos (r : RangeSetting) : 0 < r.divisor := by
  cases r <;> decide

/-- Stage 2 as a product of words. -/
theorem applyScaleFactor_eq_mul (raw : Raw) (r : RangeSetting) :
    applyScaleFactor raw r = sext16 raw * BitVec.twoPow 16 r.shift := BitVec.shiftLeft_eq_mul_twoPow _ _

/-- The scaling multiplies by the power of two and loses no bit: 14 bits shifted by at most 2 fit 16 (R134 (2)). -/
theorem applyScaleFactor_toInt (raw : Raw) (r : RangeSetting) :
    (applyScaleFactor raw r).toInt = raw.toInt * 2 ^ r.shift := by
  obtain ⟨lower, upper⟩ := raw_toInt_bounds raw
  have factor : (BitVec.twoPow 16 r.shift).toInt = 2 ^ r.shift := by cases r <;> decide
  rw [applyScaleFactor_eq_mul, BitVec.toInt_mul, sext16_toInt, factor]
  apply Int.bmod_eq_of_le
  all_goals cases r <;> simp only [RangeSetting.shift] <;> omega

/-- The real number a scaled sample stands for (R133). -/
theorem gValue_applyScaleFactor (raw : Raw) (r : RangeSetting) :
    gValue (applyScaleFactor raw r) = (raw.toInt : ℚ) / r.divisor := by
  have positive : (r.divisor : ℚ) ≠ 0 := by exact_mod_cast (divisor_pos r).ne'
  have product : (r.divisor : ℚ) * 2 ^ r.shift = 4096 := by exact_mod_cast divisor_mul_two_pow_shift r
  rw [gValue, applyScaleFactor_toInt, div_eq_div_iff (by norm_num) positive, ← product]
  push_cast
  ring

/-- Settles O18: the table by its rows, the step and the span of a range by the real numbers they stand for. -/
theorem rangeTable : Obligations.RangeTable := by
  refine ⟨rfl, rfl, rfl, rfl, rfl, rfl, rfl, divisor_mul_two_pow_shift, fun r => ofCode_eq_some_iff.mpr rfl, fun r => ?_⟩
  have least : (0x2000 : Raw).toInt = -8192 := by decide
  have greatest : (0x1FFF : Raw).toInt = 8191 := by decide
  have one : (0x0001 : Raw).toInt = 1 := by decide
  simp only [gValue_applyScaleFactor, least, greatest, one]
  norm_num

/-- Settles O19: the shift and the quotient for a range's own code, the one reserved code, and one range for the axes. -/
theorem scalingIsExactDivision : Obligations.ScalingIsExactDivision := by
  refine ⟨fun raw rng r h => ⟨?_, gValue_applyScaleFactor raw r⟩, fun _ => ofCode_eq_none_iff, storeSample_phys⟩
  obtain rfl := ofCode_eq_some_iff.mp h
  cases r <;> rfl

/-- Shifting right by 2 and back clears the two low bits of the axis word (R134 (6)). -/
theorem applyScaleFactor_unpack_g8 (hi lo : Byte) :
    applyScaleFactor (unpack14bSigned hi lo) .g8 = (hi ++ lo : Lane) &&& 0xFFFC := by
  have mask : (0xFFFC : Lane) = BitVec.allOnes 16 <<< 2 := by decide
  rw [applyScaleFactor, sext16_unpack14bSigned, mask]
  ext i lt
  simp only [RangeSetting.shift, BitVec.getElem_shiftLeft, BitVec.getElem_and, BitVec.getElem_sshiftRight,
    BitVec.getElem_allOnes]
  by_cases low : i < 2
  · simp [low]
  · simp [low, show 2 + (i - 2) = i by omega, lt]

/-- Settles O20, law by law. -/
theorem arithmeticLawsOfThePipeline : Obligations.ArithmeticLawsOfThePipeline := by
  rintro hi lo r raw phys hraw rfl
  have quotient : raw.toInt = (hi ++ lo : Lane).toInt / 4 := hraw ▸ unpack14bSigned_toInt hi lo
  have product := applyScaleFactor_toInt raw r
  have power : (0 : ℤ) < 2 ^ r.shift := by positivity
  refine ⟨⟨hraw ▸ unpack14bSigned_toInt_eq_floor hi lo, by omega, by omega⟩, ⟨product, ?_⟩,
    gValue_applyScaleFactor raw r, fun k hk => ?_, ⟨divisor_pos r, ?_, ?_⟩, fun code => ?_⟩
  · obtain ⟨lower, upper⟩ := raw_toInt_bounds raw
    rw [product]
    cases r <;> simp only [RangeSetting.shift] <;> omega
  · simp [applyScaleFactor, hk]
  · rw [product, mul_neg_iff]
    omega
  · rw [product, mul_eq_zero]
    omega
  · obtain rfl : r = .g8 := eq_of_code_eq code
    rw [hraw, applyScaleFactor_unpack_g8]

/-- A lane of three packed ones is taken out where it was put in (R135). -/
theorem packXyz_lanes (x y z : Lane) :
    (packXyz x y z).extractLsb' 32 16 = x ∧ (packXyz x y z).extractLsb' 16 16 = y ∧
      (packXyz x y z).extractLsb' 0 16 = z :=
  ⟨(BitVec.extractLsb'_append_eq_of_le (by decide)).trans (BitVec.extractLsb'_append_eq_left (a := x) (b := y)),
    (BitVec.extractLsb'_append_eq_of_le (by decide)).trans (BitVec.extractLsb'_append_eq_right (a := x) (b := y)),
    BitVec.extractLsb'_append_eq_right (a := x ++ y) (b := z)⟩

/-- Settles O21: the lanes of a packed word, and the bytes of the raw lanes as shifted axis words. -/
theorem packedLanesKeepBusOrder : Obligations.PackedLanesKeepBusOrder := by
  refine ⟨fun x y z => ⟨rfl, packXyz_lanes x y z⟩, fun _ => ⟨rfl, rfl⟩, ?_⟩
  rintro b b0 b1 b2 b3 b4 b5 r _ _ _ rfl rfl rfl
  simp only [← sext16_unpack14bSigned]
  exact packedBytes_packXyz _ _ _

end Sys2Proof.Proofs
end

section
/-! DECODE and ACQUIRE from acceptance to response (R137, R138, R140), and ACQUIRE as the three commands it stands for
(R141). -/

namespace Sys2Proof.Proofs

open Sys2Proof.Machine Sys2Proof.Laws

/-- The 12 bytes of the sample decoded from a burst at a range (R87, R137). -/
def sampleBytes (burst : Burst) (r : RangeSetting) : List Byte :=
  packedBytes (packXyz (sext16 (unpack14bSigned burst.b0 burst.b1)) (sext16 (unpack14bSigned burst.b2 burst.b3))
    (sext16 (unpack14bSigned burst.b4 burst.b5))) ++
  packedBytes (packXyz (applyScaleFactor (unpack14bSigned burst.b0 burst.b1) r)
    (applyScaleFactor (unpack14bSigned burst.b2 burst.b3) r)
    (applyScaleFactor (unpack14bSigned burst.b4 burst.b5) r))

/-- The answer of the pipeline to a range code and a burst: it depends on nothing else (R137, R138). -/
def sampleResponse (rng : RangeCode) (burst : Burst) : Response :=
  match RangeSetting.ofCode rng with
  | none => ⟨.fault .rangeReserved, []⟩
  | some r => ⟨.ok, sampleBytes burst r⟩

/-- The block after the pipeline: the sample stored, or with the reserved code as it was; and SEQ idle (R137, R138). -/
def afterSample (rng : RangeCode) (burst : Burst) (b : Block) : Block :=
  match RangeSetting.ofCode rng with
  | none => { b with seq := .idle }
  | some r => { b.storeSample burst r with seq := .idle }

/-- The last part of DECODE and ACQUIRE writes the block and answers, and does nothing else (R137, R138). -/
theorem finishSample_eq (s : State) (cmd : CommandWord) (rng : RangeCode) (burst : Burst) :
    s.finishSample cmd rng burst = { s with
      block := afterSample rng burst s.block
      history := s.history ++ [⟨cmd, sampleResponse rng burst⟩] } := by
  unfold State.finishSample afterSample sampleResponse
  cases RangeSetting.ofCode rng with
  | none => rfl
  | some r => rfl

/-- DECODE uses no bus and keeps all but the sample and its response (R137). -/
theorem exec_decode (rng : RangeCode) (b0 b1 b2 b3 b4 b5 : Byte) (s : State) :
    exec (.decode rng b0 b1 b2 b3 b4 b5) s = .next { s with
      block := afterSample rng ⟨b0, b1, b2, b3, b4, b5⟩ s.accept.block
      history := s.history ++
        [⟨encode (.decode rng b0 b1 b2 b3 b4 b5), sampleResponse rng ⟨b0, b1, b2, b3, b4, b5⟩⟩] } := by
  rw [exec, execDecode, finishSample_eq]
  rfl

/-- Bursts with the same axis values give the same sample and the same answer. -/
theorem sample_congr {burst burst' : Burst}
    (x : unpack14bSigned burst.b0 burst.b1 = unpack14bSigned burst'.b0 burst'.b1)
    (y : unpack14bSigned burst.b2 burst.b3 = unpack14bSigned burst'.b2 burst'.b3)
    (z : unpack14bSigned burst.b4 burst.b5 = unpack14bSigned burst'.b4 burst'.b5) (rng : RangeCode) (b : Block) :
    afterSample rng burst b = afterSample rng burst' b ∧ sampleResponse rng burst = sampleResponse rng burst' := by
  simp only [afterSample, sampleResponse, sampleBytes, Block.storeSample, x, y, z, and_self]

/-- Storing a sample again changes nothing: the seven are written from the operands alone (R137). -/
theorem afterSample_accept_afterSample (rng : RangeCode) (burst : Burst) (b : Block) :
    afterSample rng burst { afterSample rng burst b with seq := .busy } = afterSample rng burst b := by
  unfold afterSample
  cases RangeSetting.ofCode rng with
  | none => rfl
  | some r => rfl

theorem lastResponse_of_history {s : State} {l : List Exchange} {x : Exchange} (h : s.history = l ++ [x]) :
    s.lastResponse = some x.response := by
  simp [State.lastResponse, h]

/-- Settles O23: the command by whether its code has a range, the word by its fields or by R84 (e), and the two laws of
repetition from what the sample and the response depend on. -/
theorem decodeStoresTheSample : Obligations.DecodeStoresTheSample := by
  refine ⟨fun rng r b0 b1 b2 b3 b4 b5 s range => ?_, fun b0 b1 b2 b3 b4 b5 s => exec_decode 3 b0 b1 b2 b3 b4 b5 s,
    fun s c idle port op => ⟨fun mbz => ?_, fun mbz => ?_⟩, ?_, ?_⟩
  · rw [exec_decode, afterSample, sampleResponse, range]
    rfl
  · exact step_of_spells idle port ⟨op, mbz, rfl, rfl, rfl, rfl, rfl, rfl, rfl⟩
  · exact step_illegal idle port (.inr (.inr (.inr (.inr (.inl ⟨op, mbz⟩)))))
  · intro rng b0 b1 b2 b3 b4 b5 c1 c3 c5 s t u x y z ht hu
    rw [exec_decode] at ht hu
    cases ht
    cases hu
    obtain ⟨block, response⟩ := sample_congr (burst := ⟨b0, b1, b2, b3, b4, b5⟩) (burst' := ⟨b0, c1, b2, c3, b4, c5⟩)
      (unpack14bSigned_congr b0 x) (unpack14bSigned_congr b2 y) (unpack14bSigned_congr b4 z) rng s.accept.block
    exact ⟨block, by rw [lastResponse_of_history rfl, lastResponse_of_history rfl, response]⟩
  · intro rng b0 b1 b2 b3 b4 b5 s t u ht hu
    rw [exec_decode] at ht hu
    cases ht
    cases hu
    exact ⟨afterSample_accept_afterSample rng _ _, by rw [lastResponse_of_history rfl, lastResponse_of_history rfl]⟩

theorem exec_acquire (s : State) :
    exec .acquire s = .next (afterTransaction (encode .acquire) (s.accept.memRead s.config.regOutXMsb 6) fun burst t =>
      afterTransaction (encode .acquire) (t.memRead t.config.regXyzDataCfg 1) fun dataCfg u =>
        u.finishSample (encode .acquire) (rangeField (byteAt dataCfg 0)) (Burst.ofBytes burst)) := rfl

/-- The machine in the middle of an ACQUIRE: accepted, the burst read, the bus released (R138). -/
def afterBurst (d : Device) (burst : List Byte) (s : State) : State :=
  { s with
    block := { s.block with seq := .busy, busHeld := false }
    device := d
    trace := s.trace ++
      [.write s.config.devAddr [s.config.regOutXMsb] true (.ok []), .read s.config.devAddr 6 (.ok burst)] }

/-- ACQUIRE whose burst is read goes on with the range, not before (R138). -/
theorem exec_acquire_of_burst {s : State} {d₁ d₂ : Device} {burst : List Byte}
    (select : s.device.write [s.config.regOutXMsb] true = (.ok [], d₁)) (read : d₁.read 6 = (.ok burst, d₂)) :
    exec .acquire s = .next (afterTransaction (encode .acquire)
      ((afterBurst d₂ burst s).memRead s.config.regXyzDataCfg 1) fun dataCfg u =>
        u.finishSample (encode .acquire) (rangeField (byteAt dataCfg 0)) (Burst.ofBytes burst)) := by
  rw [exec_acquire, memRead_of_selected (s := s.accept) select read]
  rfl

/-- ACQUIRE whose four primitives complete ends with the answer of the pipeline (R138). -/
theorem exec_acquire_of_ok {s : State} {d₁ d₂ d₃ d₄ : Device} {burst : List Byte} {c : Byte}
    (select : s.device.write [s.config.regOutXMsb] true = (.ok [], d₁)) (read : d₁.read 6 = (.ok burst, d₂))
    (select' : d₂.write [s.config.regXyzDataCfg] true = (.ok [], d₃)) (read' : d₃.read 1 = (.ok [c], d₄)) :
    exec .acquire s = .next { s with
      block := afterSample (rangeField c) (Burst.ofBytes burst) { s.block with seq := .busy, busHeld := false }
      device := d₄
      trace := s.trace ++
        [.write s.config.devAddr [s.config.regOutXMsb] true (.ok []), .read s.config.devAddr 6 (.ok burst),
         .write s.config.devAddr [s.config.regXyzDataCfg] true (.ok []), .read s.config.devAddr 1 (.ok [c])]
      history := s.history ++ [⟨encode .acquire, sampleResponse (rangeField c) (Burst.ofBytes burst)⟩] } := by
  rw [exec_acquire_of_burst select read, memRead_of_selected (s := afterBurst d₂ burst s) select' read',
    afterTransaction_ok, finishSample_eq]
  simp [afterBurst, byteAt]

/-- ACQUIRE whose first primitive fails (R138). -/
theorem exec_acquire_of_select_fail {s : State} {d : Device}
    (select : s.device.write [s.config.regOutXMsb] true = (.fail, d)) :
    exec .acquire s = .next (afterResponse .acquire d
      [.write s.config.devAddr [s.config.regOutXMsb] true .fail] ⟨.fault .transportError, []⟩ s) := by
  rw [exec_acquire, memRead_of_select_fail (s := s.accept) 6 select]
  rfl

/-- ACQUIRE whose second primitive fails (R138). -/
theorem exec_acquire_of_read_fail {s : State} {d₁ d₂ : Device}
    (select : s.device.write [s.config.regOutXMsb] true = (.ok [], d₁)) (read : d₁.read 6 = (.fail, d₂)) :
    exec .acquire s = .next (afterResponse .acquire d₂
      [.write s.config.devAddr [s.config.regOutXMsb] true (.ok []), .read s.config.devAddr 6 .fail]
      ⟨.fault .transportError, []⟩ s) := by
  rw [exec_acquire, memRead_of_selected (s := s.accept) select read]
  rfl

/-- ACQUIRE whose third primitive fails (R138). -/
theorem exec_acquire_of_range_select_fail {s : State} {d₁ d₂ d₃ : Device} {burst : List Byte}
    (select : s.device.write [s.config.regOutXMsb] true = (.ok [], d₁)) (read : d₁.read 6 = (.ok burst, d₂))
    (select' : d₂.write [s.config.regXyzDataCfg] true = (.fail, d₃)) :
    exec .acquire s = .next (afterResponse .acquire d₃
      [.write s.config.devAddr [s.config.regOutXMsb] true (.ok []), .read s.config.devAddr 6 (.ok burst),
       .write s.config.devAddr [s.config.regXyzDataCfg] true .fail] ⟨.fault .transportError, []⟩ s) := by
  rw [exec_acquire_of_burst select read, memRead_of_select_fail (s := afterBurst d₂ burst s) 1 select',
    afterTransaction_fail]
  simp [afterBurst, afterResponse, State.takeFault, State.respond]

/-- ACQUIRE whose fourth primitive fails (R138). -/
theorem exec_acquire_of_range_read_fail {s : State} {d₁ d₂ d₃ d₄ : Device} {burst : List Byte}
    (select : s.device.write [s.config.regOutXMsb] true = (.ok [], d₁)) (read : d₁.read 6 = (.ok burst, d₂))
    (select' : d₂.write [s.config.regXyzDataCfg] true = (.ok [], d₃)) (read' : d₃.read 1 = (.fail, d₄)) :
    exec .acquire s = .next (afterResponse .acquire d₄
      [.write s.config.devAddr [s.config.regOutXMsb] true (.ok []), .read s.config.devAddr 6 (.ok burst),
       .write s.config.devAddr [s.config.regXyzDataCfg] true (.ok []), .read s.config.devAddr 1 .fail]
      ⟨.fault .transportError, []⟩ s) := by
  rw [exec_acquire_of_burst select read, memRead_of_selected (s := afterBurst d₂ burst s) select' read',
    afterTransaction_fail]
  simp [afterBurst, afterResponse, State.takeFault, State.respond]

/-- Settles O24: the command by the answers of its primitives, the word by its fields or by R84 (f). -/
theorem acquireStoresTheSample : Obligations.AcquireStoresTheSample := by
  refine ⟨?_, ?_, ?_, fun s c idle port op => ⟨fun mbz => ?_, fun mbz => ?_⟩⟩
  · intro s d₁ d₂ d₃ d₄ b0 b1 b2 b3 b4 b5 c r select read select' read' range
    rw [exec_acquire_of_ok select read select' read', rangeField, afterSample, sampleResponse, range]
    rfl
  · intro s d₁ d₂ d₃ d₄ burst c select read select' read' reserved
    rw [exec_acquire_of_ok select read select' read', rangeField, reserved]
    rfl
  · rintro s d₁ d₂ d₃ d₄ burst _ _ _ _ rfl rfl rfl rfl
    exact ⟨exec_acquire_of_select_fail, exec_acquire_of_read_fail, exec_acquire_of_range_select_fail,
      exec_acquire_of_range_read_fail⟩
  · exact step_of_spells idle port ⟨op, mbz⟩
  · exact step_illegal idle port (.inr (.inr (.inr (.inr (.inr ⟨op, mbz⟩)))))

/-- Settles O25, by the four ways a command goes: only the one that stores a sample ends with OK. -/
theorem sampleUpdateIsAllOrNothing : Obligations.SampleUpdateIsAllOrNothing := by
  intro i s t command h
  cases exec_ran h with
  | hung sample _ history => exact .inr ⟨by simp [history], sample⟩
  | fault f sample _ _ history => exact .inr ⟨by simp [history], sample⟩
  | plain _ _ _ _ _ _ notAcquire notDecode =>
    obtain ⟨rng, b0, b1, b2, b3, b4, b5, e⟩ | e := command
    · exact absurd e (notDecode rng b0 b1 b2 b3 b4 b5)
    · exact absurd e notAcquire
  | stored burst r sample _ _ history =>
    exact .inl ⟨⟨_, history⟩, sampleValid_of_sampleOf sample, burst, r, sample⟩

/-- The three ways a read command goes, by what its transaction did: it completed and its bytes are the answer; it
failed and the answer is `TransportError`; or it never returned and there is no answer (R111, R112, R114). -/
inductive ReadOutcome (i : Instr) (addr : Byte) (n : Nat) (s t : State) : Prop
  | completed (bytes : List Byte) (u : State) (reading : s.accept.memRead addr n = (.ok bytes, u))
      (next : t = u.respond (encode i) .ok bytes) (history : t.history = s.history ++ [⟨encode i, ⟨.ok, bytes⟩⟩])
  | failed (u : State) (reading : s.accept.memRead addr n = (.fail, u))
      (next : t = u.takeFault (encode i) .transportError)
      (history : t.history = s.history ++ [⟨encode i, ⟨.fault .transportError, []⟩⟩])
  | hung (reading : s.accept.memRead addr n = (.never, t)) (history : t.history = s.history)

/-- Every read command goes one of the three ways. -/
theorem IsRead.outcome {i : Instr} {addr : Byte} {n : Nat} {s t : State} (hi : IsRead i addr n)
    (h : exec i s = .next t) : ReadOutcome i addr n s t := by
  rw [hi] at h
  rcases hm : s.accept.memRead addr n with ⟨reply, u⟩
  obtain ⟨_, _, history, _⟩ := memRead_frame hm
  rw [hm] at h
  cases reply with
  | ok bytes =>
    cases h
    exact .completed bytes u hm rfl (by simp [history])
  | fail =>
    cases h
    exact .failed u hm rfl (by simp [history])
  | never =>
    cases h
    exact .hung hm history

/-- A read command answered with OK read those bytes. -/
theorem IsRead.completed {i : Instr} {addr : Byte} {n : Nat} {bytes : List Byte} {s t : State} (hi : IsRead i addr n)
    (h : exec i s = .next t) (ok : t.history = s.history ++ [⟨encode i, ⟨.ok, bytes⟩⟩]) :
    ∃ u, s.accept.memRead addr n = (.ok bytes, u) ∧ t = u.respond (encode i) .ok bytes := by
  cases hi.outcome h with
  | completed got u reading next history =>
    obtain rfl : got = bytes := by simpa [history] using ok
    exact ⟨u, reading, next⟩
  | failed _ _ _ history => simp [history] at ok
  | hung _ history => simp [history] at ok

/-- A read command answered with a fault is one whose transaction failed. -/
theorem IsRead.failed {i : Instr} {addr : Byte} {n : Nat} {f : CommandFault} {s t : State} (hi : IsRead i addr n)
    (h : exec i s = .next t) (fault : t.history = s.history ++ [⟨encode i, ⟨.fault f, []⟩⟩]) :
    f = .transportError ∧ ∃ u, s.accept.memRead addr n = (.fail, u) ∧ t = u.takeFault (encode i) .transportError := by
  cases hi.outcome h with
  | completed _ _ _ _ history => simp [history] at fault
  | failed u reading next history => exact ⟨by simpa [history] using fault.symm, u, reading, next⟩
  | hung _ history => simp [history] at fault

/-- A read command still in progress is one whose transaction never returned. -/
theorem IsRead.hung {i : Instr} {addr : Byte} {n : Nat} {s t : State} (hi : IsRead i addr n)
    (h : exec i s = .next t) (busy : t.block.seq = .busy) : s.accept.memRead addr n = (.never, t) := by
  cases hi.outcome h with
  | completed _ _ _ next => simp [next] at busy
  | failed _ _ next => simp [next] at busy
  | hung reading => exact reading

/-- A register read transaction neither reads nor writes the responses. -/
theorem memRead_history (s : State) (l : List Exchange) (addr : Byte) (n : Nat) :
    { s with history := l }.memRead addr n =
      ((s.memRead addr n).1, { (s.memRead addr n).2 with history := l }) := by
  dsimp only [State.memRead, State.busWrite]
  cases (s.device.write [addr] true).1 with
  | ok _ => rfl
  | fail => rfl
  | never => rfl

/-- A busy block that responds and accepts the next command is as it was. -/
theorem accept_respond_block {s : State} {cmd : CommandWord} {status : Status} {data : List Byte}
    (busy : s.block.seq = .busy) : (s.respond cmd status data).accept.block = s.block := by
  simp [← busy]

/-- A busy machine that responds and accepts the next command has gained the response and is else as it was. -/
theorem eq_accept_respond {s : State} {cmd : CommandWord} {status : Status} {data : List Byte}
    (busy : s.block.seq = .busy) : s = { (s.respond cmd status data).accept with history := s.history } := by
  simp [State.respond, State.accept, ← busy]

/-- ACQUIRE reads the range as the RDREG does that follows the RDBLK: between the two lies a response, which ACQUIRE
does not give and which no transaction reads (R141). -/
theorem exec_acquire_of_rdblk {s u v : State} {burst : List Byte} {r : BusReply} {cmd : CommandWord}
    (first : s.accept.memRead s.config.regOutXMsb 6 = (.ok burst, u))
    (second : (u.respond cmd .ok burst).accept.memRead s.config.regXyzDataCfg 1 = (r, v)) :
    exec .acquire s = .next (afterTransaction (encode .acquire) (r, { v with history := s.history }) fun dataCfg w =>
      w.finishSample (encode .acquire) (rangeField (byteAt dataCfg 0)) (Burst.ofBytes burst)) := by
  obtain ⟨_, busy, history, config, _⟩ := memRead_frame first
  have range : u.memRead u.config.regXyzDataCfg 1 = (r, { v with history := s.history }) := by
    calc u.memRead u.config.regXyzDataCfg 1
        = { (u.respond cmd .ok burst).accept with history := s.history }.memRead s.config.regXyzDataCfg 1 := by
          rw [config, accept_config, ← accept_history s, ← history, ← eq_accept_respond busy]
      _ = _ := memRead_history _ _ _ _
      _ = (r, { v with history := s.history }) := by rw [second]
  rw [exec_acquire, first, afterTransaction_ok, range]

/-- Settles O27: the answers of the RDBLK and the RDREG tell how the two transactions went, ACQUIRE issues the same two,
and what follows the second is the pipeline of the DECODE. -/
theorem acquireIsBurstThenRangeThenDecode : Obligations.AcquireIsBurstThenRangeThenDecode := by
  intro s s₁ s₂ s₃ t b0 b1 b2 b3 b4 b5 c h₁ h₂ h₃ h
  have rdblk : IsRead (.rdblk s.config.regOutXMsb 6) s.config.regOutXMsb 6 := isRead_rdblk _ (by decide)
  have rdreg := isRead_rdreg s.config.regXyzDataCfg
  refine ⟨fun ok₁ ok₂ => ?_, fun f fault₁ => ?_, fun f ok₁ fault₂ => ?_, fun busy₁ => ?_, fun ok₁ busy₂ => ?_⟩
  · obtain ⟨u, first, rfl⟩ := rdblk.completed h₁ ok₁
    obtain ⟨v, second, rfl⟩ := rdreg.completed h₂ ok₂
    rw [exec_acquire_of_rdblk first second, afterTransaction_ok, finishSample_eq] at h
    rw [exec_decode] at h₃
    cases h
    cases h₃
    obtain ⟨_, busy, _⟩ := memRead_frame second
    exact ⟨congrArg (afterSample _ _) (accept_respond_block busy).symm, rfl, rfl, _, lastResponse_of_history rfl, rfl⟩
  · obtain ⟨rfl, u, first, rfl⟩ := rdblk.failed h₁ fault₁
    obtain ⟨_, _, history, _⟩ := memRead_frame first
    rw [exec_acquire, first, afterTransaction_fail] at h
    cases h
    simp [history]
  · obtain ⟨u, first, rfl⟩ := rdblk.completed h₁ ok₁
    obtain ⟨rfl, v, second, rfl⟩ := rdreg.failed h₂ fault₂
    rw [exec_acquire_of_rdblk first second, afterTransaction_fail] at h
    cases h
    simp
  · have first := rdblk.hung h₁ busy₁
    obtain ⟨_, _, history, _⟩ := memRead_frame first
    rw [exec_acquire, first, afterTransaction_never] at h
    cases h
    exact ⟨rfl, rfl, rfl, history⟩
  · obtain ⟨u, first, rfl⟩ := rdblk.completed h₁ ok₁
    rw [exec_acquire_of_rdblk first (rdreg.hung h₂ busy₂), afterTransaction_never] at h
    cases h
    exact ⟨rfl, rfl, rfl, rfl⟩

end Sys2Proof.Proofs
end

section
/-! The host's moves as exact steps (R160 to R171): a procedure that is called, and a procedure whose response is
there. -/

namespace Sys2Proof.Proofs

open Sys2Proof.Machine Sys2Proof.Laws

/-- A free host that calls a procedure takes the procedure's first turn. -/
theorem step_of_call {s : State} {p : Procedure} {rest : List Input} (free : s.hostFree)
    (inputs : s.inputs = .call p :: rest) :
    step s = .next ({ s with inputs := rest }.hostTurn (p.start s.config s.host.drv)) := by
  obtain ⟨hseq, hport, hjob⟩ := free
  simp only [step, hseq, idleStep, hport, State.hostStep, hjob, State.takeInput, inputs]

/-- A host in a procedure whose response is there takes the procedure's next turn. -/
theorem step_of_job {s : State} {job : Job} {response : Response} (idle : s.block.seq = .idle) (port : s.port = none)
    (hjob : s.host.job = some job) (last : s.lastResponse = some response) :
    step s = .next (s.hostTurn (job.resume s.config s.host.drv response)) := by
  simp only [step, idle, idleStep, port, State.hostStep, hjob, State.resumeJob, last]

/-- The same for a response with status OK (R161 to R167). -/
theorem step_of_okJob {s : State} {job : Job} {data : List Byte} (idle : s.block.seq = .idle) (port : s.port = none)
    (hjob : s.host.job = some job) (last : s.lastResponse = some ⟨.ok, data⟩) :
    step s = .next (s.hostTurn (job.onOk s.config s.host.drv data)) :=
  step_of_job idle port hjob last

/-- Settles O50: the turn after a fault is the same for every job but for `DRV`. -/
theorem aHostProcedureStopsAtItsFirstFault : Obligations.AHostProcedureStopsAtItsFirstFault :=
  fun _ _ _ _ idle port hjob last => step_of_job idle port hjob last

/-- Settles O48: the turn of each job of R161 steps 4 to 7. -/
theorem initializeIssuesItsWritesInOrder : Obligations.InitializeIssuesItsWritesInOrder := by
  rintro s job next i ⟨_, data⟩ idle port hjob last rfl
  rw [step_of_okJob idle port hjob last]
  refine ⟨fun move => ?_, ?_⟩
  · simp only [List.mem_cons, Prod.mk.injEq, List.not_mem_nil, or_false] at move
    obtain ⟨rfl, rfl, rfl⟩ | ⟨rfl, rfl, rfl⟩ | ⟨rfl, rfl, rfl⟩ | ⟨rfl, rfl, rfl⟩ | ⟨rfl, rfl, rfl⟩ := move <;> rfl
  · rintro rfl
    rfl

/-- A poll that reads the reset bit as 0 is the last (R161 step 2). -/
theorem pollTurn_of_clear {cfg : Config} {c : Byte} (k : Nat) (drv : Drv) (clear : ¬ resetBitSet cfg c) :
    pollTurn cfg k c drv = ⟨.issue (.wrreg cfg.regXyzDataCfg 0x01) .initRange, drv⟩ :=
  if_neg clear

/-- A poll that reads the reset bit as 1 is repeated below the bound (R161 step 2). -/
theorem pollTurn_of_set {cfg : Config} {k : Nat} {c : Byte} (drv : Drv) (set : resetBitSet cfg c)
    (below : cfg.resetPollMax ≠ some (k + 1)) :
    pollTurn cfg k c drv = ⟨.issue (.rdreg cfg.regCtrl2) (.initPoll (k + 1)), drv⟩ := by
  rw [pollTurn, if_pos set, if_neg below]

/-- The poll fails at its bound (R161 step 2). -/
theorem pollTurn_of_bound {cfg : Config} {k : Nat} {c : Byte} (drv : Drv) (set : resetBitSet cfg c)
    (bound : cfg.resetPollMax = some (k + 1)) :
    pollTurn cfg k c drv = ⟨.finish (.failed .resetTimeout), .uninitialized⟩ := by
  rw [pollTurn, if_pos set, if_pos bound]

/-- Settles O49: the three ways a poll goes. -/
theorem resetPollRepeatsUntilClearOrBound : Obligations.ResetPollRepeatsUntilClearOrBound := by
  intro s k c idle port hjob last
  have turn : step s = .next (s.hostTurn (pollTurn s.config k c s.host.drv)) := step_of_okJob idle port hjob last
  refine ⟨fun clear => ?_, fun set below => ?_, fun set bound => ?_⟩
  · rw [turn, pollTurn_of_clear k _ (not_not_intro clear)]
    rfl
  · rw [turn, pollTurn_of_set _ set below]
    rfl
  · rw [turn, pollTurn_of_bound _ set bound]
    rfl

end Sys2Proof.Proofs
end

section
/-! A host procedure on a device that completes its primitives. A round is one command of the host with its response and
the host's turn after it; it makes one register access (R52, R53). What a procedure does is said by the accesses it
makes, in order, and the turn it is at after them. -/

namespace Sys2Proof.Proofs

open Sys2Proof.Machine Sys2Proof.Laws

theorem stepN_of_step {s t : State} (h : step s = .next t) (k : Nat) : stepN (k + 1) s = stepN k t := by
  rw [stepN, h]

/-- A run in two parts. -/
theorem stepN_add {j : Nat} {s t : State} (h : stepN j s = .next t) (k : Nat) : stepN (j + k) s = stepN k t := by
  induction j generalizing s with
  | zero =>
    cases h
    rw [Nat.zero_add]
  | succ j ih =>
    cases hstep : step s with
    | next u =>
      rw [stepN_of_step hstep] at h
      rw [Nat.add_right_comm, stepN_of_step hstep, ih h]
    | fault r => simp [stepN, hstep] at h
    | refused r => simp [stepN, hstep] at h

/-- The command that makes an access (R110, R111). -/
def commandOf : RegAccess → Instr
  | .wrote a v => .wrreg a v
  | .mayHaveWritten a v => .wrreg a v
  | .readAs a _ => .rdreg a

/-- The data of the OK response to the command of an access (R86). -/
def dataOf : RegAccess → List Byte
  | .wrote _ _ => []
  | .mayHaveWritten _ _ => []
  | .readAs _ v => [v]

/-- The bus frame of an access (R88, R89, R115). -/
def frameOf (dev : DevAddr) : RegAccess → List BusEvent
  | .wrote a v => [.write dev [a, v] false (.ok [])]
  | .mayHaveWritten a v => [.write dev [a, v] false .fail]
  | .readAs a v => [.write dev [a] true (.ok []), .read dev 1 (.ok [v])]

/-- The frame of an access shows that access. -/
@[simp] theorem accesses_frameOf (dev : DevAddr) (x : RegAccess) (rest : List BusEvent) :
    accesses (frameOf dev x ++ rest) = x :: accesses rest := by
  cases x <;> rfl

theorem accesses_flatMap_frameOf (dev : DevAddr) (xs : List RegAccess) : accesses (xs.flatMap (frameOf dev)) = xs := by
  induction xs with
  | nil => rfl
  | cons x xs ih => rw [List.flatMap_cons, accesses_frameOf, ih]

/-- The device completes the primitives of an access, and is another device after them. -/
inductive Completes : Device → RegAccess → Device → Prop
  | wrote {d d' : Device} {a v : Byte} (write : d.write [a, v] false = (.ok [], d')) : Completes d (.wrote a v) d'
  | readAs {d d₁ d' : Device} {a v : Byte} (select : d.write [a] true = (.ok [], d₁))
      (read : d₁.read 1 = (.ok [v], d')) : Completes d (.readAs a v) d'

/-- The device completes the accesses of a list, one after another. -/
inductive CompletesAll : Device → List RegAccess → Device → Prop
  | nil {d : Device} : CompletesAll d [] d
  | cons {d d₁ d' : Device} {x : RegAccess} {xs : List RegAccess} (first : Completes d x d₁)
      (rest : CompletesAll d₁ xs d') : CompletesAll d (x :: xs) d'

/-- The command of an access that the device completes is answered with OK (R110, R111). -/
theorem exec_of_completes {s : State} {x : RegAccess} {d : Device} (h : Completes s.device x d) :
    exec (commandOf x) s =
      .next (afterResponse (commandOf x) d (frameOf s.config.devAddr x) ⟨.ok, dataOf x⟩ s) := by
  cases h with
  | wrote write => exact exec_wrreg_of_ok write
  | readAs select read => exact (isRead_rdreg _).exec_of_ok select read

/-- The machine after the commands of these accesses, each answered with OK: the bus released, the device, the trace and
the responses advanced, and every other field as before. -/
def served (xs : List RegAccess) (d : Device) (s : State) : State :=
  { s with
    block := { s.block with busHeld := xs.isEmpty && s.block.busHeld }
    device := d
    trace := s.trace ++ xs.flatMap (frameOf s.config.devAddr)
    history := s.history ++ xs.map fun x => ⟨encode (commandOf x), ⟨.ok, dataOf x⟩⟩ }

@[simp] theorem served_nil (s : State) : served [] s.device s = s := by simp [served]

@[simp] theorem served_served (xs ys : List RegAccess) (d d' : Device) (s : State) :
    served ys d' (served xs d s) = served (xs ++ ys) d' s := by
  have released : (ys.isEmpty && (xs.isEmpty && s.block.busHeld)) = ((xs ++ ys).isEmpty && s.block.busHeld) := by
    cases xs <;> simp
  simp [served, released]

/-- The procedure that is at `turn` makes the accesses of the list if each command is answered with OK, and is then at
`turn'` (R161 to R167). -/
inductive Proceeds (cfg : Config) : HostTurn → List RegAccess → HostTurn → Prop
  | nil {turn : HostTurn} : Proceeds cfg turn [] turn
  | cons {turn turn' : HostTurn} {x : RegAccess} {xs : List RegAccess} {job : Job}
      (issues : turn.move = .issue (commandOf x) job)
      (rest : Proceeds cfg (job.onOk cfg turn.drv (dataOf x)) xs turn') : Proceeds cfg turn (x :: xs) turn'

theorem Proceeds.trans {cfg : Config} {turn turn' turn'' : HostTurn} {xs ys : List RegAccess}
    (h : Proceeds cfg turn xs turn') (h' : Proceeds cfg turn' ys turn'') : Proceeds cfg turn (xs ++ ys) turn'' := by
  induction h with
  | nil => exact h'
  | cons issues _ ih => exact .cons issues (ih h')

/-- The machine whose host waits in a job for the response to its command. -/
def inJob (drv : Drv) (job : Job) (s : State) : State :=
  { s with host := { s.host with drv := drv, job := some job } }

/-- A host that issues a command presents its word and waits. -/
theorem hostTurn_of_issue {turn : HostTurn} {i : Instr} {job : Job} (issues : turn.move = .issue i job) (s : State) :
    s.hostTurn turn = { inJob turn.drv job s with port := some (encode i) } := by
  rw [State.hostTurn, issues]
  rfl

/-- A turn writes anew what the turn before it wrote. -/
theorem hostTurn_inJob (turn : HostTurn) (drv : Drv) (job : Job) (s : State) :
    (inJob drv job s).hostTurn turn = s.hostTurn turn := by
  unfold State.hostTurn
  cases turn.move with
  | issue i job => rfl
  | finish r => rfl

/-- The step after a turn that issues a command runs the command (R85). -/
theorem step_of_issue {s : State} {turn : HostTurn} {i : Instr} {job : Job} (idle : s.block.seq = .idle)
    (port : s.port = none) (issues : turn.move = .issue i job) (wf : i.wellFormed = true) :
    step (s.hostTurn turn) = exec i (inJob turn.drv job s) := by
  have run := step_of_spells (s := { inJob turn.drv job s with port := some (encode i) }) idle rfl (spells_encode wf)
  rw [hostTurn_of_issue issues, run]
  dsimp only
  rw [← port]
  rfl

theorem commandOf_wellFormed (x : RegAccess) : (commandOf x).wellFormed = true := by
  cases x <;> rfl

/-- The command of one access, answered with OK, as a command of the host's. -/
theorem afterResponse_eq_served {s : State} (idle : s.block.seq = .idle) (x : RegAccess) (d : Device) :
    afterResponse (commandOf x) d (frameOf s.config.devAddr x) ⟨.ok, dataOf x⟩ s = served [x] d s := by
  simp [afterResponse, served, idle]

/-- One round: the command is run and answered with OK, and the host takes its next turn. -/
theorem stepN_round {s : State} {turn : HostTurn} {x : RegAccess} {job : Job} {d : Device}
    (idle : s.block.seq = .idle) (port : s.port = none) (issues : turn.move = .issue (commandOf x) job)
    (completes : Completes s.device x d) :
    stepN 2 (s.hostTurn turn) =
      .next ((served [x] d s).hostTurn (job.onOk s.config turn.drv (dataOf x))) := by
  have run : step (s.hostTurn turn) = .next (inJob turn.drv job (served [x] d s)) := by
    rw [step_of_issue idle port issues (commandOf_wellFormed x),
      exec_of_completes (s := inJob turn.drv job s) completes,
      afterResponse_eq_served (s := inJob turn.drv job s) idle]
    rfl
  have last : (inJob turn.drv job (served [x] d s)).lastResponse = some ⟨.ok, dataOf x⟩ :=
    lastResponse_of_history (l := s.history) (x := ⟨encode (commandOf x), ⟨.ok, dataOf x⟩⟩) rfl
  have move := step_of_okJob (s := inJob turn.drv job (served [x] d s)) idle port rfl last
  rw [hostTurn_inJob] at move
  rw [stepN_of_step run, stepN_of_step move]
  rfl

/-- A procedure on a device that completes its primitives: two steps for each of its accesses. -/
theorem stepN_of_proceeds {turn turn' : HostTurn} {xs : List RegAccess} {d : Device} {s : State}
    (idle : s.block.seq = .idle) (port : s.port = none) (proceeds : Proceeds s.config turn xs turn')
    (completes : CompletesAll s.device xs d) :
    stepN (2 * xs.length) (s.hostTurn turn) = .next ((served xs d s).hostTurn turn') := by
  induction xs generalizing s turn with
  | nil =>
    cases proceeds
    cases completes
    rw [served_nil]
    rfl
  | cons x xs ih =>
    cases proceeds with
    | cons issues later =>
      cases completes with
      | @cons _ d₁ _ _ _ first rest =>
        rw [List.length_cons, Nat.mul_succ, Nat.add_comm, stepN_add (stepN_round idle port issues first),
          ih (s := served [x] d₁ s) idle port later rest, served_served, List.singleton_append]

/-- A call of a procedure on a device that completes its primitives. -/
theorem stepN_of_call {p : Procedure} {turn : HostTurn} {xs : List RegAccess} {d : Device} {s : State}
    {rest : List Input} (free : s.hostFree) (inputs : s.inputs = .call p :: rest)
    (proceeds : Proceeds s.config (p.start s.config s.host.drv) xs turn) (completes : CompletesAll s.device xs d) :
    stepN (2 * xs.length + 1) s = .next ((served xs d { s with inputs := rest }).hostTurn turn) := by
  rw [stepN_of_step (step_of_call free inputs)]
  exact stepN_of_proceeds (s := { s with inputs := rest }) free.1 free.2.1 proceeds completes

end Sys2Proof.Proofs
end

section
/-! The queries and the two setters on any device that completes their primitives (R162 to R166), and the identity read
of INITIALIZE (R161). -/

namespace Sys2Proof.Proofs

open Sys2Proof.Machine Sys2Proof.Laws

/-- The rate of a control byte as GETDATARATE computes it (R164). -/
theorem rateBits_eq (c : Byte) : (c >>> 3) &&& 0x07 = (c.extractLsb' 3 3).setWidth 8 := by
  apply BitVec.eq_of_toNat_eq
  simp [Nat.and_two_pow_sub_one_eq_mod _ 3, Nat.shiftRight_eq_div_pow]
  omega

/-- GETRANGE is one read, and a result of the byte read (R162). -/
theorem getRange_proceeds (cfg : Config) (drv : Drv) (c : Byte) :
    Proceeds cfg (Procedure.start cfg drv .getRange) [.readAs cfg.regXyzDataCfg c] ⟨.finish (.ok [c &&& 0x03]), drv⟩ :=
  .cons rfl .nil

/-- GETDATARATE is one read, and a result of the byte read (R164). -/
theorem getDataRate_proceeds (cfg : Config) (drv : Drv) (c : Byte) :
    Proceeds cfg (Procedure.start cfg drv .getDataRate) [.readAs cfg.regCtrl1 c]
      ⟨.finish (.ok [(c.extractLsb' 3 3).setWidth 8]), drv⟩ := by
  rw [← rateBits_eq]
  exact .cons rfl .nil

/-- GETORIENTATION is one read, and a result of the byte read (R166). -/
theorem getOrientation_proceeds (cfg : Config) (drv : Drv) (c : Byte) :
    Proceeds cfg (Procedure.start cfg drv .getOrientation) [.readAs cfg.regPlStatus c]
      ⟨.finish (.ok [c &&& 0x07]), drv⟩ :=
  .cons rfl .nil

/-- A device that completes one read. -/
theorem completesAll_read {d d₁ d' : Device} {a v : Byte} (select : d.write [a] true = (.ok [], d₁))
    (read : d₁.read 1 = (.ok [v], d')) : CompletesAll d [.readAs a v] d' :=
  .cons (.readAs select read) .nil

/-- A free host is in no procedure. -/
theorem host_eq_of_free {s : State} (free : s.hostFree) (results : List HostResult) :
    { s.host with results := results } = ({ drv := s.host.drv, job := none, results := results } : HostState) := by
  rw [← free.2.2]

/-- Settles O42: each query is one access, and ends with its result. -/
theorem queriesReadOneRegisterAndMask : Obligations.QueriesReadOneRegisterAndMask := by
  intro s rest p reg c result d₁ d₂ free inputs query select read
  have proceeds : Proceeds s.config (p.start s.config s.host.drv) [.readAs reg c]
      ⟨.finish (.ok [result]), s.host.drv⟩ := by
    simp only [List.mem_cons, Prod.mk.injEq, List.not_mem_nil, or_false] at query
    obtain ⟨rfl, rfl, rfl⟩ | ⟨rfl, rfl, rfl⟩ | ⟨rfl, rfl, rfl⟩ := query
    · exact getRange_proceeds _ _ c
    · exact getDataRate_proceeds _ _ c
    · exact getOrientation_proceeds _ _ c
  rw [host_eq_of_free free]
  exact stepN_of_call free inputs proceeds (completesAll_read select read)

/-- Settles O47: the one access of an INITIALIZE whose identity byte is wrong. -/
theorem identityMismatchIssuesNoWrite : Obligations.IdentityMismatchIssuesNoWrite := by
  intro s rest id d₁ d₂ free inputs select read mismatch
  have turn : Job.onOk s.config .probing [id] .initIdentity = ⟨.finish (.failed .identityMismatch), .uninitialized⟩ :=
    if_pos mismatch
  have proceeds : Proceeds s.config (Procedure.start s.config s.host.drv .initialise)
      [.readAs s.config.regWhoAmI id] ⟨.finish (.failed .identityMismatch), .uninitialized⟩ :=
    .cons rfl (turn ▸ .nil)
  exact stepN_of_call free inputs proceeds (completesAll_read select read)

/-- The writes of SETRANGE on a device whose control register reads `c`: standby, range, restore (R163). -/
def setRangeWrites (cfg : Config) (r : RangeSetting) (c : Byte) : List RegAccess :=
  [.wrote cfg.regCtrl1 (c &&& 0xFE), .wrote cfg.regXyzDataCfg (r.code.setWidth 8), .wrote cfg.regCtrl1 c]

/-- The accesses of SETRANGE on a device whose control register reads `c` (R163). -/
def setRangeAccesses (cfg : Config) (r : RangeSetting) (c : Byte) : List RegAccess :=
  .readAs cfg.regCtrl1 c :: setRangeWrites cfg r c

theorem setRangeWrites_proceeds (cfg : Config) (drv : Drv) (r : RangeSetting) (c : Byte) :
    Proceeds cfg (Job.onOk cfg drv [c] (.setRangeRead r)) (setRangeWrites cfg r c) ⟨.finish (.ok []), drv⟩ :=
  .cons rfl (.cons rfl (.cons rfl .nil))

theorem setRange_proceeds (cfg : Config) (drv : Drv) (r : RangeSetting) (c : Byte) :
    Proceeds cfg (Procedure.start cfg drv (.setRange r)) (setRangeAccesses cfg r c) ⟨.finish (.ok []), drv⟩ :=
  .cons rfl (setRangeWrites_proceeds cfg drv r c)

/-- The accesses of SETDATARATE on a device whose control register reads `c` (R165). -/
def setRateAccesses (cfg : Config) (rate : RateCode) (c : Byte) : List RegAccess :=
  [.readAs cfg.regCtrl1 c, .wrote cfg.regCtrl1 (c &&& 0xFE), .wrote cfg.regCtrl1 (rateByte c rate),
   .wrote cfg.regCtrl1 (rateByte c rate ||| (c &&& 0x01))]

theorem setRate_proceeds (cfg : Config) (drv : Drv) (rate : RateCode) (c : Byte) :
    Proceeds cfg (Procedure.start cfg drv (.setDataRate rate)) (setRateAccesses cfg rate c)
      ⟨.finish (.ok []), drv⟩ :=
  .cons rfl (.cons rfl (.cons rfl (.cons rfl .nil)))

/-- A device that completes one read and three writes. -/
theorem completesAll_read_writes {d d₁ d₂ d₃ d₄ d₅ : Device} {a v a₁ v₁ a₂ v₂ a₃ v₃ : Byte}
    (select : d.write [a] true = (.ok [], d₁)) (read : d₁.read 1 = (.ok [v], d₂))
    (write₁ : d₂.write [a₁, v₁] false = (.ok [], d₃)) (write₂ : d₃.write [a₂, v₂] false = (.ok [], d₄))
    (write₃ : d₄.write [a₃, v₃] false = (.ok [], d₅)) :
    CompletesAll d [.readAs a v, .wrote a₁ v₁, .wrote a₂ v₂, .wrote a₃ v₃] d₅ :=
  .cons (.readAs select read) (.cons (.wrote write₁) (.cons (.wrote write₂) (.cons (.wrote write₃) .nil)))

/-- Settles O43: the accesses of SETRANGE. -/
theorem setRangeWritesStandbyRangeRestore : Obligations.SetRangeWritesStandbyRangeRestore := by
  intro s rest r c d₁ d₂ d₃ d₄ d₅ free inputs select read standby range restore
  rw [host_eq_of_free free]
  exact ⟨_, stepN_of_call free inputs (setRange_proceeds s.config s.host.drv r c)
      (completesAll_read_writes select read standby range restore),
    rfl, rfl, ⟨free.1, free.2.1, rfl⟩, rfl, rfl, rfl⟩

/-- The bits of the bytes of SETDATARATE (R165): the rate, the activation bit, and the bits kept. -/
theorem rateByte_bits (c : Byte) (rate : RateCode) :
    (rateByte c rate).extractLsb' 3 3 = rate ∧ (rateByte c rate ||| (c &&& 0x01)).extractLsb' 3 3 = rate ∧
    (c &&& 0xFE).getLsbD 0 = false ∧ (rateByte c rate).getLsbD 0 = false ∧
    (rateByte c rate ||| (c &&& 0x01)).getLsbD 0 = c.getLsbD 0 ∧
    ∀ k ∈ [7, 6, 2, 1], (c &&& 0xFE).getLsbD k = c.getLsbD k ∧ (rateByte c rate).getLsbD k = c.getLsbD k ∧
      (rateByte c rate ||| (c &&& 0x01)).getLsbD k = c.getLsbD k := by
  refine ⟨?_, ?_, ?_, ?_, ?_, ?_⟩
  · ext k hk
    interval_cases k <;> simp [rateByte]
  · ext k hk
    interval_cases k <;> simp [rateByte]
  · simp
  · simp [rateByte]
  · simp [rateByte]
  · simp [rateByte, BitVec.getLsbD_eq_getElem]

/-- Settles O44: the accesses of SETDATARATE, and the bits of its bytes. -/
theorem setDataRateWritesStandbyRateRestore : Obligations.SetDataRateWritesStandbyRateRestore := by
  rintro s rest rate c _ d₁ d₂ d₃ d₄ d₅ free inputs rfl select read standby modify restore
  rw [host_eq_of_free free]
  exact ⟨_, stepN_of_call free inputs (setRate_proceeds s.config s.host.drv rate c)
      (completesAll_read_writes select read standby modify restore),
    rfl, rfl, ⟨free.1, free.2.1, rfl⟩, rfl, rfl, rfl, rateByte_bits c rate⟩

end Sys2Proof.Proofs
end

section
/-! A setter and then its getter on the fixture of R63 (R162 to R165). -/

namespace Sys2Proof.Proofs

open Sys2Proof.Machine Sys2Proof.Laws

/-- The fixture after an access (R63): a write is stored and logged, a read moves the pointer. -/
def mockAfter (m : MockDevice) : RegAccess → MockDevice
  | .wrote a v => { m with mem := Memory.write a.toNat v m.mem, log := m.log ++ [(a, v)] }
  | .mayHaveWritten _ _ => m
  | .readAs a _ => { m with pointer := a }

/-- The access is one that the fixture completes: a write, or a read of the byte stored (R63). -/
def mockShows (m : MockDevice) : RegAccess → Prop
  | .wrote _ _ => True
  | .mayHaveWritten _ _ => False
  | .readAs a v => v = Memory.read a.toNat m.mem

/-- The accesses of a list, one after another, are ones that the fixture completes. -/
def mockShowsAll (m : MockDevice) : List RegAccess → Prop
  | [] => True
  | x :: xs => mockShows m x ∧ mockShowsAll (mockAfter m x) xs

/-- The fixture completes a write (R63). -/
theorem mock_write_completes {m : MockDevice} (unsaid : m.verdicts = []) (bytes : List Byte) (hold : Bool) :
    (Device.mock m).write bytes hold = (.ok [], .mock (m.take bytes hold)) := by
  rw [mock_write_unsaid unsaid, show m.spend = m by rw [MockDevice.spend, unsaid, List.tail_nil, ← unsaid]]

/-- The fixture without the self-clearing variant completes a read, and it stays as it is (R63). -/
theorem mock_read_completes {m : MockDevice} (unsaid : m.verdicts = []) (plain : m.selfClear = none) :
    (Device.mock m).read 1 = (.ok [Memory.read m.pointer.toNat m.mem], .mock m) := by
  have spent : m.spend = m := by rw [MockDevice.spend, unsaid, List.tail_nil, ← unsaid]
  have bytes : m.bytes 1 = [Memory.read m.pointer.toNat m.mem] := by
    simp [MockDevice.bytes, Nat.mod_eq_of_lt m.pointer.isLt]
  have kept : m.afterRead = m := by rw [MockDevice.afterRead, plain]
  rw [Device.read, MockDevice.read, MockDevice.verdict, unsaid, List.headD_nil, spent, bytes, kept]

/-- The fixture completes the accesses it shows, and they alone change it. -/
theorem mock_completesAll {m : MockDevice} {xs : List RegAccess} (unsaid : m.verdicts = []) (plain : m.selfClear = none)
    (shows : mockShowsAll m xs) : CompletesAll (.mock m) xs (.mock (xs.foldl mockAfter m)) := by
  induction xs generalizing m with
  | nil => exact .nil
  | cons x xs ih =>
    obtain ⟨shown, later⟩ := shows
    cases x with
    | wrote a v => exact .cons (.wrote (mock_write_completes unsaid _ _)) (ih unsaid plain later)
    | mayHaveWritten a v => exact shown.elim
    | readAs a v =>
      obtain rfl : v = Memory.read a.toNat m.mem := shown
      refine .cons (.readAs (mock_write_completes unsaid _ _) ?_) (ih unsaid plain later)
      exact mock_read_completes (m := { m with pointer := a }) unsaid plain

/-- A canonical store read after three writes (R63). -/
theorem read_three_writes {mem : Memory} (wf : Memory.wf mem = true) (a a₁ a₂ a₃ v₁ v₂ v₃ : Byte) :
    Memory.read a.toNat (Memory.write a₃.toNat v₃ (Memory.write a₂.toNat v₂ (Memory.write a₁.toNat v₁ mem))) =
      if a = a₃ then v₃ else if a = a₂ then v₂ else if a = a₁ then v₁ else Memory.read a.toNat mem := by
  rw [read_write (write_wf _ _ (write_wf _ _ wf)), read_write (write_wf _ _ wf), read_write wf]
  simp only [BitVec.toNat_inj]

theorem CompletesAll.split {d d' : Device} {xs ys : List RegAccess} (h : CompletesAll d (xs ++ ys) d') :
    ∃ e, CompletesAll d xs e ∧ CompletesAll e ys d' := by
  induction xs generalizing d with
  | nil => exact ⟨d, .nil, h⟩
  | cons x xs ih =>
    cases h with
    | cons first rest =>
      obtain ⟨e, before, after⟩ := ih rest
      exact ⟨e, .cons first before, after⟩

/-- Two procedures that keep `DRV`, one after the other, on a device that completes their primitives. -/
theorem stepN_of_calls {s : State} {p q : Procedure} {xs ys : List RegAccess} {r r' : HostResult} {d : Device}
    (free : s.hostFree) (inputs : s.inputs = [.call p, .call q])
    (first : Proceeds s.config (p.start s.config s.host.drv) xs ⟨.finish r, s.host.drv⟩)
    (second : Proceeds s.config (q.start s.config s.host.drv) ys ⟨.finish r', s.host.drv⟩)
    (completes : CompletesAll s.device (xs ++ ys) d) :
    ∃ t, stepN (2 * xs.length + 1 + (2 * ys.length + 1)) s = .next t ∧ t.hostFree ∧
      t.host.results = s.host.results ++ [r, r'] ∧ t.device = d := by
  obtain ⟨e, before, after⟩ := completes.split
  obtain ⟨idle, port, _⟩ := id free
  have run := stepN_of_call free inputs first before
  have run' := stepN_of_call (s := (served xs e { s with inputs := [.call q] }).hostTurn ⟨.finish r, s.host.drv⟩)
    ⟨idle, port, rfl⟩ rfl second after
  refine ⟨_, (stepN_add run _).trans run', ⟨idle, port, rfl⟩, ?_, rfl⟩
  simp [State.hostTurn, served]

/-- GETRANGE returns the code that SETRANGE wrote (R162, R163). -/
theorem rangeResult (r : RangeSetting) : (r.code.setWidth 8 : Byte) &&& 0x03 = r.code.setWidth 8 := by
  cases r <;> decide

/-- Settles O45: the fixture shows the accesses of the two procedures, the last of them a read of the code written. -/
theorem getRangeAfterSetRangeReturnsIt : Obligations.GetRangeAfterSetRangeReturnsIt := by
  intro s m r free inputs mock unsaid plain wf apart
  have set := setRange_proceeds s.config s.host.drv r (Memory.read s.config.regCtrl1.toNat m.mem)
  have get := getRange_proceeds s.config s.host.drv (r.code.setWidth 8)
  rw [rangeResult] at get
  have shown : r.code.setWidth 8 = Memory.read s.config.regXyzDataCfg.toNat (List.foldl mockAfter m
      (setRangeAccesses s.config r (Memory.read s.config.regCtrl1.toNat m.mem))).mem := by
    refine Eq.trans ?_ (read_three_writes wf _ _ _ _ _ _ _).symm
    rw [if_neg apart.symm, if_pos rfl]
  have shows : mockShowsAll m (setRangeAccesses s.config r (Memory.read s.config.regCtrl1.toNat m.mem) ++
      [.readAs s.config.regXyzDataCfg (r.code.setWidth 8)]) := ⟨rfl, trivial, trivial, trivial, shown, trivial⟩
  obtain ⟨t, run, ended, results, device⟩ :=
    stepN_of_calls free inputs set get (mock ▸ mock_completesAll unsaid plain shows)
  exact ⟨t, _, run, ended, results, device, by simp [setRangeAccesses, setRangeWrites, mockAfter]⟩

/-- Settles O46: the fixture shows the accesses of the two procedures, the last of them a read of the byte written
last, which has the rate. -/
theorem getDataRateAfterSetDataRateReturnsIt : Obligations.GetDataRateAfterSetDataRateReturnsIt := by
  intro s m rate c free inputs mock unsaid plain wf control
  obtain ⟨_, lastRate, standby, modified, active, _⟩ := rateByte_bits c rate
  have set := setRate_proceeds s.config s.host.drv rate c
  have get := getDataRate_proceeds s.config s.host.drv (rateByte c rate ||| (c &&& 0x01))
  rw [lastRate] at get
  have shown : rateByte c rate ||| (c &&& 0x01) = Memory.read s.config.regCtrl1.toNat (List.foldl mockAfter m
      (setRateAccesses s.config rate c)).mem := by
    refine Eq.trans ?_ (read_three_writes wf _ _ _ _ _ _ _).symm
    rw [if_pos rfl]
  have shows : mockShowsAll m (setRateAccesses s.config rate c ++
      [.readAs s.config.regCtrl1 (rateByte c rate ||| (c &&& 0x01))]) :=
    ⟨control, trivial, trivial, trivial, shown, trivial⟩
  obtain ⟨t, run, ended, results, device⟩ :=
    stepN_of_calls free inputs set get (mock ▸ mock_completesAll unsaid plain shows)
  exact ⟨t, _, c &&& 0xFE, rateByte c rate, rateByte c rate ||| (c &&& 0x01), run, ended, results, device,
    by simp [setRateAccesses, mockAfter], standby, modified, active, shown.symm⟩

end Sys2Proof.Proofs
end

section
/-! INITIALIZE by the accesses it makes (R161, R171), run on the replies of the oracle (R62). -/

namespace Sys2Proof.Proofs

open Sys2Proof.Machine Sys2Proof.Laws

/-- The replies that complete an access (R50 to R53). -/
def repliesOf : RegAccess → List BusReply
  | .wrote _ _ => [.ok []]
  | .mayHaveWritten _ _ => [.fail]
  | .readAs _ v => [.ok [], .ok [v]]

/-- The oracle completes the accesses whose replies are its next ones (R62). -/
theorem oracle_completesAll {xs : List RegAccess} (completed : ∀ a v, .mayHaveWritten a v ∉ xs)
    (rest : List BusReply) (draws : Nat) :
    CompletesAll (.oracle (xs.flatMap repliesOf ++ rest) draws) xs (.oracle rest draws) := by
  induction xs with
  | nil => exact .nil
  | cons x xs ih =>
    have later := ih fun a v => List.not_mem_of_not_mem_cons (completed a v)
    rw [List.flatMap_cons, List.append_assoc]
    cases x with
    | wrote a v => exact .cons (.wrote rfl) later
    | mayHaveWritten a v => exact absurd List.mem_cons_self (completed a v)
    | readAs a v => exact .cons (.readAs rfl rfl) later

/-- The accesses of R161 up to step 1 on a device that reports `DEVICE_ID`. -/
def resetAccesses (cfg : Config) : List RegAccess :=
  [.readAs cfg.regWhoAmI cfg.deviceId, .wrote cfg.regCtrl2 cfg.ctrl2ResetMask]

/-- The accesses of a reset poll that reads the bytes `busy` and then `last` (R161 step 2). -/
def pollAccesses (cfg : Config) (busy : List Byte) (last : Byte) : List RegAccess :=
  busy.map (RegAccess.readAs cfg.regCtrl2) ++ [.readAs cfg.regCtrl2 last]

/-- The accesses of R161 steps 3 to 7. -/
def setupAccesses (cfg : Config) : List RegAccess :=
  [.wrote cfg.regXyzDataCfg 0x01, .wrote cfg.regCtrl2 cfg.ctrl2HiresValue, .wrote cfg.regIntEn cfg.intEnDrdyValue,
   .wrote cfg.regIntMap cfg.intMapDrdyValue, .wrote cfg.regPlCfg cfg.plCfgEnableValue,
   .wrote cfg.regCtrl1 (activateByte cfg)]

/-- The turn that presents poll number `k + 1` (R161 step 2). -/
def pollRead (cfg : Config) (k : Nat) (drv : Drv) : HostTurn := ⟨.issue (.rdreg cfg.regCtrl2) (.initPoll k), drv⟩

/-- The turn that leaves the poll for step 3 (R161). -/
def pollOver (cfg : Config) (drv : Drv) : HostTurn := ⟨.issue (.wrreg cfg.regXyzDataCfg 0x01) .initRange, drv⟩

/-- The host's turn after an identity read of `DEVICE_ID` (R161 step 1). -/
theorem onOk_identity (cfg : Config) (drv : Drv) :
    Job.onOk cfg drv [cfg.deviceId] .initIdentity =
      ⟨.issue (.wrreg cfg.regCtrl2 cfg.ctrl2ResetMask) .initReset, .configuring⟩ :=
  if_neg (not_not_intro rfl)

theorem reset_proceeds (cfg : Config) (drv : Drv) :
    Proceeds cfg (Procedure.start cfg drv .initialise) (resetAccesses cfg) (pollRead cfg 0 .configuring) := by
  refine .cons rfl ?_
  rw [dataOf, onOk_identity]
  exact .cons rfl .nil

/-- The poll goes on as long as it reads the reset bit as 1, below its bound (R171). -/
theorem poll_proceeds {cfg : Config} {k : Nat} {busy : List Byte} {last : Byte} (drv : Drv)
    (set : ∀ c ∈ busy, resetBitSet cfg c) (clear : ¬ resetBitSet cfg last)
    (below : ∀ bound, cfg.resetPollMax = some bound → k + busy.length < bound) :
    Proceeds cfg (pollRead cfg k drv) (pollAccesses cfg busy last) (pollOver cfg drv) := by
  induction busy generalizing k with
  | nil =>
    refine .cons rfl ?_
    rw [Job.onOk]
    exact pollTurn_of_clear k drv clear ▸ .nil
  | cons c busy ih =>
    have more : cfg.resetPollMax ≠ some (k + 1) := fun h => by
      have := List.length_cons ▸ below _ h
      omega
    have below' : ∀ bound, cfg.resetPollMax = some bound → k + 1 + busy.length < bound := fun bound h => by
      have := List.length_cons ▸ below bound h
      omega
    have again := ih (fun c h => set c (.tail _ h)) below'
    refine .cons rfl ?_
    rw [Job.onOk]
    exact (pollTurn_of_set drv (set c List.mem_cons_self) more).symm ▸ again

theorem setup_proceeds (cfg : Config) (drv : Drv) :
    Proceeds cfg (pollOver cfg drv) (setupAccesses cfg) ⟨.finish (.ok []), .ready⟩ :=
  .cons rfl (.cons rfl (.cons rfl (.cons rfl (.cons rfl (.cons rfl .nil)))))

/-- A host that waits for its command to be run is one that has just issued it. -/
theorem eq_hostTurn {s : State} {i : Instr} {job : Job} (port : s.port = some (encode i))
    (hjob : s.host.job = some job) : s = { s with port := none }.hostTurn ⟨.issue i job, s.host.drv⟩ := by
  rw [hostTurn_of_issue rfl, inJob, ← hjob, ← port]

/-- Settles O51: the poll by its accesses, which the oracle completes. -/
theorem unboundedPollEndsWhenTheResetBitClears : Obligations.UnboundedPollEndsWhenTheResetBitClears := by
  intro s k draws busy last rest idle hjob port unbounded set clear device
  have poll := poll_proceeds (k := k) s.host.drv set clear (by simp [unbounded])
  have completes := oracle_completesAll (xs := pollAccesses s.config busy last) (by simp [pollAccesses]) rest draws
  have replies : (pollAccesses s.config busy last).flatMap repliesOf ++ rest =
      (busy.flatMap fun c => ([.ok [], .ok [c]] : List BusReply)) ++ ([.ok [], .ok [last]] : List BusReply) ++ rest := by
    simp [pollAccesses, List.flatMap_map, repliesOf]
  rw [replies, ← device] at completes
  have run := stepN_of_proceeds (s := { s with port := none }) idle rfl poll completes
  have length : (pollAccesses s.config busy last).length = busy.length + 1 := by simp [pollAccesses]
  rw [pollRead, ← eq_hostTurn port hjob, length] at run
  refine ⟨_, run, rfl, rfl, rfl, rfl, ?_⟩
  simp [pollOver, State.hostTurn, served, pollAccesses, Nat.add_assoc]

/-- Settles O52: the three parts of INITIALIZE by their accesses, which the oracle completes. -/
theorem initializeRunsToReady : Obligations.InitializeRunsToReady := by
  intro s rest busy last draws free inputs set clear below device
  have proceeds := (reset_proceeds s.config s.host.drv).trans
    ((poll_proceeds .configuring set clear (by simpa using below)).trans (setup_proceeds s.config .configuring))
  have completes := oracle_completesAll
    (xs := resetAccesses s.config ++ (pollAccesses s.config busy last ++ setupAccesses s.config))
    (by simp [resetAccesses, pollAccesses, setupAccesses]) [] draws
  have replies : (resetAccesses s.config ++ (pollAccesses s.config busy last ++ setupAccesses s.config)).flatMap
        repliesOf ++ [] =
      ([.ok [], .ok [s.config.deviceId], .ok []] : List BusReply) ++
        (busy.flatMap fun c => ([.ok [], .ok [c]] : List BusReply)) ++ ([.ok [], .ok [last]] : List BusReply) ++
        List.replicate 6 (BusReply.ok []) := by
    simp [resetAccesses, pollAccesses, setupAccesses, List.flatMap_map, repliesOf, List.replicate]
  rw [replies, ← device] at completes
  have run := stepN_of_call free inputs proceeds completes
  have length : 2 * busy.length + 19 =
      2 * (resetAccesses s.config ++ (pollAccesses s.config busy last ++ setupAccesses s.config)).length + 1 := by
    simp [resetAccesses, pollAccesses, setupAccesses]
    omega
  rw [length]
  refine ⟨_, _, run, ⟨free.1, free.2.1, rfl⟩, rfl, rfl, rfl, rfl, rfl, rfl, ?_⟩
  rw [accesses_flatMap_frameOf]
  simp [resetAccesses, pollAccesses, setupAccesses, activateByte]

end Sys2Proof.Proofs
end

section
/-! A run of which it is known that its primitives completed, taken apart: what the device read and wrote is the log of
accesses that the device laws speak of (R62). -/

namespace Sys2Proof.Proofs

open Sys2Proof.Machine Sys2Proof.Laws

/-- Every one of these primitives completed (R50, R51). -/
def allCompleted (events : List BusEvent) : Prop := ∀ e ∈ events, ∃ bytes, e.reply = .ok bytes

/-- `k` steps lead from `s` to `t`, every primitive on the way completes, and `log` is the register accesses made. -/
def CompletedRun (k : Nat) (s t : State) (log : List RegAccess) : Prop :=
  ∃ events, stepN k s = .next t ∧ t.trace = s.trace ++ events ∧ allCompleted events ∧ accesses events = log

theorem stepN_trace {k : Nat} {s t : State} (h : stepN k s = .next t) : ∃ events, t.trace = s.trace ++ events := by
  induction k generalizing s with
  | zero =>
    cases h
    exact ⟨[], by simp⟩
  | succ k ih =>
    cases hstep : step s with
    | next u =>
      obtain ⟨first, before, _⟩ := step_trace_grows hstep
      rw [stepN_of_step hstep] at h
      obtain ⟨later, after⟩ := ih h
      exact ⟨first ++ later, by rw [after, before, List.append_assoc]⟩
    | fault r => simp [stepN, hstep] at h
    | refused r => simp [stepN, hstep] at h

/-- Some steps of a run done: what they put on the bus completed, and what is left is a run. -/
theorem CompletedRun.rest {j k : Nat} {s t u : State} {log : List RegAccess} (run : CompletedRun (j + k) s t log)
    (h : stepN j s = .next u) :
    ∃ events later, u.trace = s.trace ++ events ∧ allCompleted events ∧ log = accesses (events ++ later) ∧
      CompletedRun k u t (accesses later) := by
  obtain ⟨all, steps, trace, completed, rfl⟩ := run
  rw [stepN_add h] at steps
  obtain ⟨events, before⟩ := stepN_trace h
  obtain ⟨later, after⟩ := stepN_trace steps
  obtain rfl : all = events ++ later := by simpa [before] using trace.symm.trans after
  exact ⟨events, later, before, fun e h => completed e (List.mem_append_left _ h), rfl,
    later, steps, after, fun e h => completed e (List.mem_append_right _ h), rfl⟩

/-- A WRREG whose primitive completed is a write that the device completed. -/
theorem exec_wrreg_completes {a v : Byte} {s u : State} {events : List BusEvent}
    (h : exec (.wrreg a v) s = .next u) (trace : u.trace = s.trace ++ events) (completed : allCompleted events) :
    ∃ d, Completes s.device (.wrote a v) d := by
  have bus : BusAs (s.accept.memWrite a v).2 u := by
    cases h
    exact afterTransaction_bus fun _ _ => ⟨rfl, rfl⟩
  have event := List.append_cancel_left (trace.symm.trans bus.trace)
  obtain ⟨got, ok⟩ := completed _ (event ▸ List.mem_cons_self)
  have reply : (s.device.write [a, v] false).1 = .ok got := ok
  exact ⟨_, .wrote (Prod.ext ((write_ok_bytes reply) ▸ reply) rfl)⟩

/-- A RDREG whose primitives completed is a read that the device completed. -/
theorem exec_rdreg_completes {a : Byte} {s u : State} {events : List BusEvent}
    (h : exec (.rdreg a) s = .next u) (trace : u.trace = s.trace ++ events) (completed : allCompleted events) :
    ∃ c d, Completes s.device (.readAs a c) d := by
  have bus : BusAs (s.accept.memRead a 1).2 u := by
    cases h
    exact afterTransaction_bus fun _ _ => ⟨rfl, rfl⟩
  rcases hm : s.accept.memRead a 1 with ⟨reply, v⟩
  rw [hm] at bus
  obtain ⟨got, rfl⟩ : ∃ got, reply = .ok got := by
    obtain whole | ⟨_, alone⟩ := memRead_trace hm
    · obtain rfl := List.append_cancel_left (trace.symm.trans (bus.trace.trans whole))
      exact completed (.read s.config.devAddr 1 reply) (.tail _ (.head _))
    · obtain rfl := List.append_cancel_left (trace.symm.trans (bus.trace.trans alone))
      exact completed (.write s.config.devAddr [a] true reply) (.head _)
  obtain ⟨c, rfl⟩ := List.length_eq_one_iff.mp (memRead_ok_length (congrArg Prod.fst hm))
  obtain ⟨select, e⟩ | ⟨_, e⟩ | ⟨_, e⟩ := memRead_cases s.accept a 1
  · have read : ((s.device.write [a] true).2.read 1).1 = .ok [c] := congrArg Prod.fst (e.symm.trans hm)
    exact ⟨c, _, .readAs (Prod.ext select rfl) (Prod.ext read rfl)⟩
  · simp [e] at hm
  · simp [e] at hm

@[simp] theorem hostTurn_trace (s : State) (turn : HostTurn) : (s.hostTurn turn).trace = s.trace := by
  rw [hostTurn_frame]

/-- The call of a procedure puts nothing on the bus. -/
theorem CompletedRun.call {k : Nat} {s t : State} {p : Procedure} {rest : List Input} {log : List RegAccess}
    (run : CompletedRun (k + 1) s t log) (free : s.hostFree) (inputs : s.inputs = .call p :: rest) :
    CompletedRun k ({ s with inputs := rest }.hostTurn (p.start s.config s.host.drv)) t log := by
  obtain ⟨events, steps, trace, completed, log⟩ := run
  rw [stepN_of_step (step_of_call free inputs)] at steps
  exact ⟨events, steps, by rw [trace, hostTurn_trace], completed, log⟩

/-- The first step of a run whose host has just issued a command runs the command, and its primitives complete. -/
theorem CompletedRun.issued {k : Nat} {s t : State} {turn : HostTurn} {i : Instr} {job : Job} {log : List RegAccess}
    (run : CompletedRun (k + 2) (s.hostTurn turn) t log) (idle : s.block.seq = .idle) (port : s.port = none)
    (issues : turn.move = .issue i job) (wf : i.wellFormed = true) :
    ∃ u events, exec i (inJob turn.drv job s) = .next u ∧ u.trace = s.trace ++ events ∧ allCompleted events := by
  obtain ⟨u, ran⟩ := exec_completes i (inJob turn.drv job s)
  have first : stepN 1 (s.hostTurn turn) = .next u := by
    rw [stepN_of_step ((step_of_issue idle port issues wf).trans ran), stepN]
  rw [Nat.add_comm, Nat.add_assoc 1 1 k] at run
  obtain ⟨events, _, trace, completed, _⟩ := run.rest first
  exact ⟨u, events, ran, by rw [trace, hostTurn_trace], completed⟩

/-- A round of a run, once it is known that the device completed its access. -/
theorem CompletedRun.round {k : Nat} {s t : State} {turn : HostTurn} {x : RegAccess} {d : Device} {job : Job}
    {log : List RegAccess} (run : CompletedRun (k + 2) (s.hostTurn turn) t log) (idle : s.block.seq = .idle)
    (port : s.port = none) (issues : turn.move = .issue (commandOf x) job) (completes : Completes s.device x d) :
    ∃ log', log = x :: log' ∧
      CompletedRun k ((served [x] d s).hostTurn (job.onOk s.config turn.drv (dataOf x))) t log' := by
  rw [Nat.add_comm] at run
  obtain ⟨events, later, trace, _, rfl, next⟩ := run.rest (stepN_round idle port issues completes)
  obtain rfl : events = frameOf s.config.devAddr x := by
    simpa [served] using trace.symm
  exact ⟨_, accesses_frameOf _ _ _, next⟩

/-- A round of a run that writes a register. -/
theorem CompletedRun.write {k : Nat} {s t : State} {turn : HostTurn} {a v : Byte} {job : Job} {log : List RegAccess}
    (run : CompletedRun (k + 2) (s.hostTurn turn) t log) (idle : s.block.seq = .idle) (port : s.port = none)
    (issues : turn.move = .issue (.wrreg a v) job) :
    ∃ d log', log = .wrote a v :: log' ∧
      CompletedRun k ((served [.wrote a v] d s).hostTurn (job.onOk s.config turn.drv [])) t log' := by
  obtain ⟨u, events, ran, trace, completed⟩ := run.issued idle port issues rfl
  obtain ⟨d, completes⟩ := exec_wrreg_completes (s := inJob turn.drv job s) ran trace completed
  exact ⟨d, run.round idle port issues completes⟩

/-- A round of a run that reads a register. -/
theorem CompletedRun.read {k : Nat} {s t : State} {turn : HostTurn} {a : Byte} {job : Job} {log : List RegAccess}
    (run : CompletedRun (k + 2) (s.hostTurn turn) t log) (idle : s.block.seq = .idle) (port : s.port = none)
    (issues : turn.move = .issue (.rdreg a) job) :
    ∃ c d log', log = .readAs a c :: log' ∧
      CompletedRun k ((served [.readAs a c] d s).hostTurn (job.onOk s.config turn.drv [c])) t log' := by
  obtain ⟨u, events, ran, trace, completed⟩ := run.issued idle port issues rfl
  obtain ⟨c, d, completes⟩ := exec_rdreg_completes (s := inJob turn.drv job s) ran trace completed
  exact ⟨c, d, run.round idle port issues completes⟩

/-- Rounds of a run that write registers: the device has no say in what they write. -/
theorem CompletedRun.writes {k : Nat} {s t : State} {turn turn' : HostTurn} (xs : List RegAccess)
    {log : List RegAccess} (run : CompletedRun (k + 2 * xs.length) (s.hostTurn turn) t log)
    (idle : s.block.seq = .idle) (port : s.port = none) (proceeds : Proceeds s.config turn xs turn')
    (writes : ∀ x ∈ xs, ∃ a v, x = .wrote a v) :
    ∃ d log', log = xs ++ log' ∧ CompletedRun k ((served xs d s).hostTurn turn') t log' := by
  induction xs generalizing s turn log with
  | nil =>
    cases proceeds
    exact ⟨s.device, log, rfl, by rwa [served_nil]⟩
  | cons x xs ih =>
    cases proceeds with
    | cons issues later =>
      obtain ⟨a, v, rfl⟩ := writes x List.mem_cons_self
      obtain ⟨d, log', rfl, next⟩ := CompletedRun.write (k := k + 2 * xs.length) run idle port issues
      obtain ⟨d', log'', rfl, last⟩ := ih next idle port later fun x h => writes x (.tail _ h)
      rw [served_served] at last
      exact ⟨d', log'', rfl, last⟩

/-- Settles O53: under the law of R40 the byte of the identity read, the first access of the run, is `DEVICE_ID`. -/
theorem initializeGoesOnUnderTheIdentityLaw : Obligations.InitializeGoesOnUnderTheIdentityLaw := by
  intro s t rest events free inputs steps trace completed law
  have run : CompletedRun 3 s t (accesses events) := ⟨events, steps, trace, completed, rfl⟩
  obtain ⟨id, d, log', log, _, done, _⟩ := (run.call free inputs).read free.1 free.2.1 rfl
  obtain rfl : id = s.config.deviceId := law id (log ▸ List.mem_cons_self)
  rw [stepN, onOk_identity, Host.Outcome.next.injEq] at done
  subst done
  exact ⟨rfl, rfl, rfl⟩

end Sys2Proof.Proofs
end

section
/-! The host procedures under the laws of the device in the form log 26 gives them (R35, R40, R43): what a lawful log
says of the bytes read, and with it how the run goes. -/

namespace Sys2Proof.Proofs

open Sys2Proof.Machine Sys2Proof.Laws

/-- The range that GETRANGE returns is the range field of the byte read (R162, R36). -/
theorem rangeBits_eq (c : Byte) : c &&& 0x03 = (rangeField c).setWidth 8 := by
  apply BitVec.eq_of_toNat_eq
  simp [rangeField, Nat.and_two_pow_sub_one_eq_mod _ 2]
  omega

/-- Outside a device reset a read of the control register shows the active bit (R34). -/
theorem afterRead_control {cfg : Config} (traits : DeviceTraits) (active : Option Bool) (range : Option RangeCode)
    (v : Byte) (apart : cfg.regCtrl2 ≠ cfg.regCtrl1) :
    DeviceView.afterRead cfg traits cfg.regCtrl1 v ⟨active, range, .settled⟩ =
      ⟨some (ctrl1Active v), range, .settled⟩ := by
  simp [DeviceView.afterRead, apart.symm]

/-- Outside a device reset a write of the control register sets the active bit (R34). -/
theorem afterWrite_control {cfg : Config} (traits : DeviceTraits) (active : Option Bool) (range : Option RangeCode)
    (v : Byte) (apart : cfg.regCtrl2 ≠ cfg.regCtrl1) :
    DeviceView.afterWrite cfg traits cfg.regCtrl1 v ⟨active, range, .settled⟩ =
      ⟨some (ctrl1Active v), range, .settled⟩ := by
  simp [DeviceView.afterWrite, apart.symm]

/-- The standby byte has the active bit 0 (R168). -/
theorem ctrl1Active_standby (c : Byte) : ctrl1Active (c &&& 0xFE) = false := by
  simp [ctrl1Active]

theorem rangeField_code (r : RangeSetting) : rangeField (r.code.setWidth 8) = r.code := by
  cases r <;> decide

/-- After SETRANGE the device holds the range written, and its active bit is as it was read (R43, R168). -/
theorem view_after_setRange {cfg : Config} {traits : DeviceTraits} {w : DeviceView} (r : RangeSetting) (c : Byte)
    (settled : w.phase = .settled) (h₁ : cfg.regCtrl1 ≠ cfg.regXyzDataCfg) (h₂ : cfg.regCtrl2 ≠ cfg.regCtrl1)
    (h₃ : cfg.regCtrl2 ≠ cfg.regXyzDataCfg) :
    (setRangeAccesses cfg r c).foldl (DeviceView.after cfg traits) w =
      ⟨some (ctrl1Active c), some r.code, .settled⟩ := by
  obtain ⟨active, range, phase⟩ := w
  obtain rfl : phase = .settled := settled
  simp only [setRangeAccesses, setRangeWrites, List.foldl, DeviceView.after]
  rw [afterRead_control traits _ _ c h₂, afterWrite_control traits _ _ _ h₂, ctrl1Active_standby,
    afterWrite_rangeInStandby rfl rfl h₁.symm h₃.symm, rangeField_code, afterWrite_control traits _ _ c h₂]

/-- Under R43 a read of the range gives the range that the accesses before it left known. -/
theorem rangeField_of_law {cfg : Config} {traits : DeviceTraits} {w : DeviceView} {xs rest : List RegAccess} {c : Byte}
    {r : RangeCode} (law : rangeLaw cfg traits w (xs ++ .readAs cfg.regXyzDataCfg c :: rest))
    (known : (xs.foldl (DeviceView.after cfg traits) w).range = some r) : rangeField c = r := by
  obtain ⟨_, ⟨range, _⟩, _⟩ := (lawful_append cfg traits _ w xs _).mp law
  exact range rfl r known

/-- A run that calls GETRANGE: one read, and the range field of its byte as the result (R162). -/
theorem CompletedRun.getRange {k : Nat} {s t : State} {rest : List Input} {log : List RegAccess}
    (run : CompletedRun (k + 3) s t log) (free : s.hostFree) (inputs : s.inputs = .call .getRange :: rest) :
    ∃ c log' u, log = .readAs s.config.regXyzDataCfg c :: log' ∧ CompletedRun k u t log' ∧ u.hostFree ∧
      u.inputs = rest ∧ u.host.drv = s.host.drv ∧
      u.host.results = s.host.results ++ [.ok [(rangeField c).setWidth 8]] := by
  obtain ⟨c, d, log', rfl, read⟩ := (run.call free inputs).read free.1 free.2.1 rfl
  exact ⟨c, log', _, rfl, read, ⟨free.1, free.2.1, rfl⟩, rfl, rfl, by rw [← rangeBits_eq]; rfl⟩

/-- A run that calls SETRANGE makes its accesses and ends with OK (R163). -/
theorem CompletedRun.setRange {k : Nat} {s t : State} {r : RangeSetting} {rest : List Input} {log : List RegAccess}
    (run : CompletedRun (k + 9) s t log) (free : s.hostFree) (inputs : s.inputs = .call (.setRange r) :: rest) :
    ∃ c log' u, log = setRangeAccesses s.config r c ++ log' ∧ CompletedRun k u t log' ∧ u.hostFree ∧
      u.inputs = rest ∧ u.config = s.config ∧ u.host.results = s.host.results ++ [.ok []] := by
  obtain ⟨c, d, log', rfl, read⟩ := (run.call free inputs).read free.1 free.2.1 rfl
  obtain ⟨d', log'', rfl, written⟩ := read.writes (setRangeWrites s.config r c) free.1 free.2.1
    (setRangeWrites_proceeds s.config s.host.drv r c) (by simp [setRangeWrites])
  exact ⟨c, log'', _, rfl, written, ⟨free.1, free.2.1, rfl⟩, rfl, rfl, rfl⟩

/-- Settles O54: the run is that of SETRANGE and then of GETRANGE, and the law ties the byte read to the byte written. -/
theorem setRangeTakesEffectUnderTheRangeLaw : Obligations.SetRangeTakesEffectUnderTheRangeLaw := by
  intro s t r events traits w free inputs h₁ h₂ h₃ steps trace completed settled law
  have run : CompletedRun 12 s t (accesses events) := ⟨events, steps, trace, completed, rfl⟩
  obtain ⟨c, log, u, set, run, uFree, uInputs, uConfig, uResults⟩ := run.setRange free inputs
  obtain ⟨c', log', v, rfl, ⟨_, done, _⟩, vFree, _, _, vResults⟩ := run.getRange uFree uInputs
  cases done
  rw [set, uConfig] at law
  have range := rangeField_of_law law (by rw [view_after_setRange r c settled h₁ h₂ h₃])
  refine ⟨vFree, ?_⟩
  rw [vResults, uResults, range, List.append_assoc, List.singleton_append]

end Sys2Proof.Proofs
end

section
/-! INITIALIZE under the laws of the device in the form log 26 gives them (R35, R40, R43): the law of the reset bit
bounds the poll, and with it the run. -/

namespace Sys2Proof.Proofs

open Sys2Proof.Machine Sys2Proof.Laws

/-- At most `n` reads of `REG_CTRL2` in a row can show the reset bit as 1 from here (R35). -/
def clearsWithin (n : Nat) : ResetPhase → Prop
  | .settled => True
  | .running readsLeft => readsLeft ≤ n
  | .unknown => False

/-- Under R35 a read that shows the reset bit as 1 uses up one of the reads that can. -/
theorem clearsWithin_afterRead {cfg : Config} {traits : DeviceTraits} {w : DeviceView} {c : Byte} {n : Nat}
    (within : clearsWithin n w.phase) (allowed : resetAllowed cfg (.readAs cfg.regCtrl2 c) w)
    (set : resetBitSet cfg c) :
    ∃ m, n = m + 1 ∧ clearsWithin m (w.afterRead cfg traits cfg.regCtrl2 c).phase := by
  have shown : w.phase.mayReadSet = true := allowed rfl set
  cases hw : w.phase with
  | settled => simp [hw, ResetPhase.mayReadSet] at shown
  | unknown => simp [hw, clearsWithin] at within
  | running readsLeft =>
    simp only [hw, clearsWithin, ResetPhase.mayReadSet, bne_iff_ne] at within shown
    refine ⟨n - 1, by omega, ?_⟩
    simp only [DeviceView.afterRead, hw, if_true, if_pos set, clearsWithin]
    omega

/-- Under R35 a read outside a device reset starts none. -/
theorem settled_afterRead {cfg : Config} {traits : DeviceTraits} {w : DeviceView} {a v : Byte}
    (settled : w.phase = .settled) (allowed : resetAllowed cfg (.readAs a v) w) :
    (w.afterRead cfg traits a v).phase = .settled := by
  have clear : a = cfg.regCtrl2 → ¬ resetBitSet cfg v := fun e set => by
    have shown := allowed e set
    simp [settled, ResetPhase.mayReadSet] at shown
  simp only [DeviceView.afterRead, settled]
  split
  · next e => rw [if_neg (clear e), settled]
  · split
    · rfl
    · split
      · rfl
      · exact settled

/-- A device reset that a write of `REG_CTRL2` starts can be read as running `traits.resetReads` times (R35, R171). -/
theorem clearsWithin_afterWrite {cfg : Config} {traits : DeviceTraits} {w : DeviceView} (v : Byte)
    (settled : w.phase = .settled) :
    clearsWithin traits.resetReads (w.afterWrite cfg traits cfg.regCtrl2 v).phase := by
  by_cases set : resetBitSet cfg v
  · rw [afterWrite_reset settled set]
    exact le_rfl
  · simp only [DeviceView.afterWrite, settled, if_true, if_neg set]
    trivial

/-- A run in the reset poll leaves it, after as many reads as the reset bit can show 1 and one more (R171). -/
theorem CompletedRun.poll {n j k : Nat} {s t : State} {drv : Drv} {traits : DeviceTraits} {w : DeviceView}
    {log : List RegAccess} (run : CompletedRun (k + 2 * n + 2) (s.hostTurn (pollRead s.config j drv)) t log)
    (idle : s.block.seq = .idle) (port : s.port = none)
    (below : ∀ bound, s.config.resetPollMax = some bound → j + n < bound) (within : clearsWithin n w.phase)
    (law : resetLaw s.config traits w log) :
    ∃ busy last d k' log', k ≤ k' ∧ log = pollAccesses s.config busy last ++ log' ∧
      (∀ c ∈ busy, resetBitSet s.config c) ∧ ¬ resetBitSet s.config last ∧
      CompletedRun k' ((served (pollAccesses s.config busy last) d s).hostTurn (pollOver s.config drv)) t log' := by
  induction n using Nat.strong_induction_on generalizing j s w log with
  | _ n ih =>
    obtain ⟨c, d, log', rfl, next⟩ := run.read idle port rfl
    obtain ⟨allowed, later⟩ := law
    change CompletedRun _ ((served _ d s).hostTurn (pollTurn s.config j c drv)) t log' at next
    by_cases set : resetBitSet s.config c
    · obtain ⟨m, rfl, within'⟩ := clearsWithin_afterRead (traits := traits) within allowed set
      have more : s.config.resetPollMax ≠ some (j + 1) := fun h => by
        have := below _ h
        omega
      have below' : ∀ bound, s.config.resetPollMax = some bound → j + 1 + m < bound := fun bound h => by
        have := below bound h
        omega
      rw [pollTurn_of_set drv set more] at next
      obtain ⟨busy, last, d', k', log'', le, rfl, allSet, clear, rest⟩ :=
        ih m (by omega) next idle port below' within' later
      rw [served_served] at rest
      exact ⟨c :: busy, last, d', k', log'', le, rfl, List.forall_mem_cons.mpr ⟨set, allSet⟩, clear, rest⟩
    · rw [pollTurn_of_clear j drv set] at next
      exact ⟨[], c, d, k + 2 * n, log', by omega, rfl, by simp, set, next⟩

/-- A run that calls INITIALIZE comes to its first poll, under the law of R40 (R161 steps 1 and 2). -/
theorem CompletedRun.reset {k : Nat} {s t : State} {rest : List Input} {log : List RegAccess}
    (run : CompletedRun (k + 5) s t log) (free : s.hostFree) (inputs : s.inputs = .call .initialise :: rest)
    (identity : identityLaw s.config log) :
    ∃ d log', log = resetAccesses s.config ++ log' ∧
      CompletedRun k ((served (resetAccesses s.config) d { s with inputs := rest }).hostTurn
        (pollRead s.config 0 .configuring)) t log' := by
  obtain ⟨id, d, log', rfl, identified⟩ := (run.call free inputs).read free.1 free.2.1 rfl
  obtain rfl : id = s.config.deviceId := identity id List.mem_cons_self
  rw [onOk_identity] at identified
  obtain ⟨d', log'', rfl, written⟩ := identified.write free.1 free.2.1 rfl
  rw [served_served] at written
  exact ⟨d', log'', rfl, written⟩

/-- The accesses of an INITIALIZE whose poll reads the bytes `busy` and then `last` (R161). -/
def initializeAccesses (cfg : Config) (busy : List Byte) (last : Byte) : List RegAccess :=
  resetAccesses cfg ++ (pollAccesses cfg busy last ++ setupAccesses cfg)

/-- A run that calls INITIALIZE makes its accesses and ends Ready, under the laws of R35 and R40 (R161, R171). -/
theorem CompletedRun.initialise {k : Nat} {s t : State} {rest : List Input} {traits : DeviceTraits} {w : DeviceView}
    {log : List RegAccess} (run : CompletedRun (k + 12 + 2 * traits.resetReads + 7) s t log) (free : s.hostFree)
    (inputs : s.inputs = .call .initialise :: rest)
    (below : ∀ bound, s.config.resetPollMax = some bound → traits.resetReads < bound) (settled : w.phase = .settled)
    (identity : identityLaw s.config log) (law : resetLaw s.config traits w log) :
    ∃ busy last k' log' u, k ≤ k' ∧ log = initializeAccesses s.config busy last ++ log' ∧
      (∀ c ∈ busy, resetBitSet s.config c) ∧ ¬ resetBitSet s.config last ∧ CompletedRun k' u t log' ∧
      u.hostFree ∧ u.inputs = rest ∧ u.config = s.config ∧ u.host.drv = .ready ∧
      u.host.results = s.host.results ++ [.ok []] := by
  obtain ⟨d, log', rfl, polling⟩ := run.reset free inputs identity
  obtain ⟨allowed, _, law'⟩ := law
  have within := clearsWithin_afterWrite (cfg := s.config) (traits := traits) s.config.ctrl2ResetMask
    (settled_afterRead (traits := traits) settled allowed)
  obtain ⟨busy, last, d', k', log'', le, rfl, set, clear, polled⟩ :=
    polling.poll free.1 free.2.1 (by simpa [served] using below) within law'
  have six : (setupAccesses s.config).length = 6 := rfl
  obtain ⟨k'', rfl⟩ := Nat.exists_eq_add_of_le' (show 2 * (setupAccesses s.config).length ≤ k' by omega)
  obtain ⟨d'', log₂, rfl, ended⟩ := polled.writes (setupAccesses s.config) free.1 free.2.1
    (setup_proceeds s.config .configuring) (by simp [setupAccesses])
  refine ⟨busy, last, k'', log₂, _, by omega, ?_, set, clear, ended, ⟨free.1, free.2.1, rfl⟩, rfl, rfl, rfl, rfl⟩
  simp [initializeAccesses, served]

/-- A free host with nothing left to do stays as it is (R205). -/
theorem stepN_of_done {s : State} (free : s.hostFree) (inputs : s.inputs = []) (k : Nat) : stepN k s = .next s := by
  obtain ⟨idle, port, hjob⟩ := free
  have stays : step s = .next s := by
    simp only [step, idle, idleStep, port, State.hostStep, hjob, State.takeInput, inputs]
  induction k with
  | zero => rfl
  | succ k ih => rw [stepN_of_step stays, ih]

/-- The run of a statement about the laws, in the count of steps of `CompletedRun.initialise`. -/
theorem completedRun_of_steps {k n : Nat} {s t : State} {events : List BusEvent}
    (steps : stepN (k + (2 * n + 19)) s = .next t) (trace : t.trace = s.trace ++ events)
    (completed : allCompleted events) : CompletedRun (k + 12 + 2 * n + 7) s t (accesses events) := by
  have count : k + 12 + 2 * n + 7 = k + (2 * n + 19) := by omega
  exact ⟨events, count ▸ steps, trace, completed, rfl⟩

/-- Settles O56: the run is that of INITIALIZE, and after it the host has nothing left to do. -/
theorem initializeEndsUnderTheResetLaw : Obligations.InitializeEndsUnderTheResetLaw := by
  intro s t k events traits w free inputs below le steps trace completed settled identity law
  obtain ⟨k, rfl⟩ := Nat.exists_eq_add_of_le' le
  obtain ⟨_, _, _, _, u, _, _, _, _, ⟨_, done, _⟩, uFree, uInputs, _, ready, results⟩ :=
    (completedRun_of_steps steps trace completed).initialise free inputs below settled identity law
  rw [stepN_of_done uFree uInputs] at done
  cases done
  exact ⟨uFree, ready, results⟩

/-- A register of which the laws follow no field (R33, log 26). -/
def notFollowed (cfg : Config) (a : Byte) : Prop := a ≠ cfg.regCtrl2 ∧ a ≠ cfg.regCtrl1 ∧ a ≠ cfg.regXyzDataCfg

/-- A read of a register that is not followed shows nothing (log 26). -/
theorem afterRead_notFollowed {cfg : Config} {a : Byte} (h : notFollowed cfg a) (traits : DeviceTraits)
    (v : Byte) {w : DeviceView} (settled : w.phase = .settled) : w.afterRead cfg traits a v = w := by
  obtain ⟨h₁, h₂, h₃⟩ := h
  simp [DeviceView.afterRead, settled, h₁, h₂, h₃]

/-- A write of a register that is not followed changes nothing that is (log 26). -/
theorem afterWrite_notFollowed {cfg : Config} {a : Byte} (h : notFollowed cfg a) (traits : DeviceTraits)
    (v : Byte) {w : DeviceView} (settled : w.phase = .settled) : w.afterWrite cfg traits a v = w := by
  obtain ⟨h₁, h₂, h₃⟩ := h
  simp [DeviceView.afterWrite, settled, h₁, h₂, h₃]

/-- Outside a device reset a write of `REG_CTRL2` with the reset bit 0 changes nothing that is followed (log 26). -/
theorem afterWrite_noReset {cfg : Config} (traits : DeviceTraits) {v : Byte} {w : DeviceView}
    (settled : w.phase = .settled) (clear : ¬ resetBitSet cfg v) : w.afterWrite cfg traits cfg.regCtrl2 v = w := by
  simp only [DeviceView.afterWrite, settled, if_true, if_neg clear]

/-- After the reset poll the device is as a device reset leaves it (R35, N7). -/
theorem view_after_poll {cfg : Config} {traits : DeviceTraits} {busy : List Byte} {last : Byte} {w : DeviceView}
    {n : Nat} (running : w.phase = .running n) (set : ∀ c ∈ busy, resetBitSet cfg c) (clear : ¬ resetBitSet cfg last) :
    (pollAccesses cfg busy last).foldl (DeviceView.after cfg traits) w = ⟨traits.activeAfterReset, none, .settled⟩ := by
  induction busy generalizing w n with
  | nil => exact afterRead_resetOver running clear
  | cons c busy ih =>
    have more : (w.afterRead cfg traits cfg.regCtrl2 c).phase = .running (n - 1) := by
      simp only [DeviceView.afterRead, running, if_true, if_pos (set c List.mem_cons_self)]
    exact ih more fun c h => set c (.tail _ h)

/-- What the ten addresses of Table 10-2 being different says of the registers of INITIALIZE. -/
theorem followed_of_registersApart {cfg : Config} (apart : registersApart cfg) :
    cfg.regXyzDataCfg ≠ cfg.regCtrl1 ∧ cfg.regXyzDataCfg ≠ cfg.regCtrl2 ∧ cfg.regCtrl2 ≠ cfg.regCtrl1 ∧
      notFollowed cfg cfg.regWhoAmI ∧ notFollowed cfg cfg.regIntEn ∧ notFollowed cfg cfg.regIntMap ∧
      notFollowed cfg cfg.regPlCfg := by
  simp only [registersApart, List.nodup_cons, List.mem_cons, not_or] at apart
  simp only [notFollowed]
  grind

/-- The constraints of Table 00-1 on the two bytes that INITIALIZE writes to `REG_CTRL2`: one starts a device reset and
the other does not. -/
theorem resetBits_of_configWf {cfg : Config} (wf : configWf cfg = true) :
    resetBitSet cfg cfg.ctrl2ResetMask ∧ ¬ resetBitSet cfg cfg.ctrl2HiresValue := by
  simp only [configWf, Bool.and_eq_true, beq_iff_eq] at wf
  obtain ⟨⟨⟨one, hires⟩, _⟩, _⟩ := wf
  refine ⟨fun zero => ?_, fun set => set hires⟩
  rw [BitVec.and_self] at zero
  simp [zero, oneBitSet] at one

/-- After INITIALIZE the device holds the range of step 3, if it is not active after its reset (R161, R222). -/
theorem view_after_initialize {cfg : Config} {traits : DeviceTraits} {busy : List Byte} {last : Byte} {w : DeviceView}
    (apart : registersApart cfg) (wf : configWf cfg = true) (standby : traits.activeAfterReset = some false)
    (settled : w.phase = .settled) (set : ∀ c ∈ busy, resetBitSet cfg c) (clear : ¬ resetBitSet cfg last) :
    ((initializeAccesses cfg busy last).foldl (DeviceView.after cfg traits) w).range = some 1 := by
  obtain ⟨h₁, h₂, h₃, whoAmI, intEn, intMap, plCfg⟩ := followed_of_registersApart apart
  obtain ⟨starts, keeps⟩ := resetBits_of_configWf wf
  have reset : (resetAccesses cfg).foldl (DeviceView.after cfg traits) w = ⟨none, none, .running traits.resetReads⟩ := by
    simp only [resetAccesses, List.foldl, DeviceView.after]
    rw [afterRead_notFollowed whoAmI traits _ settled, afterWrite_reset settled starts]
  rw [initializeAccesses, List.foldl_append, List.foldl_append, reset, view_after_poll rfl set clear, standby]
  simp only [setupAccesses, List.foldl, DeviceView.after]
  rw [afterWrite_rangeInStandby rfl rfl h₁ h₂, afterWrite_noReset traits rfl keeps,
    afterWrite_notFollowed intEn traits _ rfl, afterWrite_notFollowed intMap traits _ rfl,
    afterWrite_notFollowed plCfg traits _ rfl, afterWrite_control traits _ _ _ h₃]
  rfl

/-- Settles O57: the run is that of INITIALIZE and then of GETRANGE, after which the host has nothing left to do, and the
law of R43 ties the byte read to the byte of step 3. -/
theorem getRangeAfterInitializeReturnsFourG : Obligations.GetRangeAfterInitializeReturnsFourG := by
  intro s t k events traits w free inputs apart wf below standby le steps trace completed settled identity law range
  obtain ⟨k, rfl⟩ := Nat.exists_eq_add_of_le' le
  have count : k + (2 * traits.resetReads + 22) = k + 3 + (2 * traits.resetReads + 19) := by omega
  rw [count] at steps
  obtain ⟨busy, last, k', log, u, enough, made, set, clear, run, uFree, uInputs, uConfig, ready, uResults⟩ :=
    (completedRun_of_steps steps trace completed).initialise free inputs below settled identity law
  obtain ⟨k', rfl⟩ := Nat.exists_eq_add_of_le' (show 3 ≤ k' by omega)
  obtain ⟨c, log', v, rfl, ⟨_, done, _⟩, vFree, vInputs, vReady, vResults⟩ := run.getRange uFree uInputs
  rw [stepN_of_done vFree vInputs] at done
  cases done
  rw [made, uConfig] at range
  have code := rangeField_of_law range (view_after_initialize apart wf standby settled set clear)
  refine ⟨vFree, vReady.trans ready, ?_⟩
  rw [vResults, uResults, code, List.append_assoc]
  rfl

end Sys2Proof.Proofs
end

section
/-! What a fault leaves behind (R192, R196, R197): the primitives that a faulted command has issued, and the state that
it ends in. -/

namespace Sys2Proof.Proofs

open Sys2Proof.Machine Sys2Proof.Laws

/-- Settles O6: the must-be-zero bits make the word one of R84's, whatever its range code. -/
theorem illegalCommandComesBeforeRangeReserved : Obligations.IllegalCommandComesBeforeRangeReserved :=
  fun _ _ idle port op mbz _ => step_illegal idle port (.inr (.inr (.inr (.inr (.inl ⟨op, mbz⟩)))))

/-- From `s` to `t` these primitives were issued, and nothing was answered. -/
structure Issued (s : State) (events : List BusEvent) (t : State) : Prop where
  history : t.history = s.history
  trace : t.trace = s.trace ++ events

theorem Issued.accept (s : State) : Issued s [] s.accept := ⟨rfl, (List.append_nil _).symm⟩

/-- From `s` on a transaction ended with `r`: its answer is that of the last primitive issued, and all before that one
completed (R52, R53). -/
def Transacted (s : State) (r : BusReply × State) : Prop :=
  ∃ done last, Issued s (done ++ [last]) r.2 ∧ last.reply = r.1 ∧ allCompleted done

theorem allCompleted_append {events : List BusEvent} {last : BusEvent} {bytes : List Byte}
    (before : allCompleted events) (reply : last.reply = .ok bytes) : allCompleted (events ++ [last]) :=
  List.forall_mem_append.mpr ⟨before, List.forall_mem_singleton.mpr ⟨bytes, reply⟩⟩

/-- A transaction that completed: every primitive issued has completed. -/
theorem Transacted.completed {s t : State} {bytes : List Byte} (h : Transacted s (.ok bytes, t)) :
    ∃ events, Issued s events t ∧ allCompleted events := by
  obtain ⟨done, last, issued, reply, completed⟩ := h
  exact ⟨done ++ [last], issued, allCompleted_append completed reply⟩

theorem memWrite_transacted {s u : State} {done : List BusEvent} (before : Issued s done u)
    (completed : allCompleted done) (addr value : Byte) : Transacted s (u.memWrite addr value) :=
  ⟨done, _, ⟨before.history, by rw [State.memWrite, busWrite_trace, before.trace, List.append_assoc]⟩, rfl,
    completed⟩

/-- The last primitive of a register read transaction is its read, or the address write that did not complete (R52). -/
theorem memRead_transacted {s u : State} {done : List BusEvent} (before : Issued s done u)
    (completed : allCompleted done) (addr : Byte) (n : Nat) : Transacted s (u.memRead addr n) := by
  rcases hm : u.memRead addr n with ⟨r, t⟩
  obtain ⟨_, _, history, _⟩ := memRead_frame hm
  obtain trace | ⟨_, trace⟩ := memRead_trace hm
  · exact ⟨done ++ [.write u.config.devAddr [addr] true (.ok [])], .read u.config.devAddr n r,
      ⟨history.trans before.history, by simp [trace, before.trace]⟩, rfl, allCompleted_append completed rfl⟩
  · exact ⟨done, .write u.config.devAddr [addr] true r,
      ⟨history.trans before.history, by simp [trace, before.trace]⟩, rfl, completed⟩

/-- The primitives that go with a fault of the command (R191 to R193, R197): with `TransportError` the last one failed
and all before it completed, with `RangeReserved` all completed, and with `IllegalCommand` there are none and the
command is not well-formed. -/
def FaultFits (i : Instr) (events : List BusEvent) : CommandFault → Prop
  | .transportError => ∃ done last, events = done ++ [last] ∧ last.reply = .fail ∧ allCompleted done
  | .rangeReserved => allCompleted events
  | .illegalCommand => events = [] ∧ i.wellFormed = false

/-- If `t` is where a command ends that started in `s` and answered with a fault, the primitives issued go with it. -/
def FaultTold (s : State) (i : Instr) (t : State) : Prop :=
  ∀ f data, t.history = s.history ++ [⟨encode i, ⟨.fault f, data⟩⟩] →
    ∃ events, t.trace = s.trace ++ events ∧ FaultFits i events f

theorem Issued.faultTold_of_hung {s t : State} {events : List BusEvent} (i : Instr) (h : Issued s events t) :
    FaultTold s i t :=
  fun _ _ fault => by simp [h.history] at fault

theorem Issued.faultTold_takeFault {s u : State} {i : Instr} {events : List BusEvent} {f : CommandFault}
    (h : Issued s events u) (fits : FaultFits i events f) : FaultTold s i (u.takeFault (encode i) f) := by
  intro f' data fault
  obtain ⟨rfl, -⟩ : f = f' ∧ data = [] := by simpa [h.history, eq_comm] using fault
  exact ⟨events, h.trace, fits⟩

theorem Issued.faultTold_ok {s u : State} {events : List BusEvent} (i : Instr) (h : Issued s events u)
    (data : List Byte) : FaultTold s i (u.respond (encode i) .ok data) :=
  fun _ _ fault => by simp [h.history] at fault

/-- A command that goes on after a transaction tells its faults right if it does so from a completed one. -/
theorem Transacted.faultTold {s : State} {i : Instr} {r : BusReply × State} {next : List Byte → State → State}
    (h : Transacted s r)
    (hn : ∀ bytes events u, Issued s events u → allCompleted events → FaultTold s i (next bytes u)) :
    FaultTold s i (afterTransaction (encode i) r next) := by
  rcases r with ⟨bytes | _ | _, u⟩
  · obtain ⟨events, issued, completed⟩ := h.completed
    exact hn bytes events u issued completed
  · obtain ⟨done, last, issued, failed, completed⟩ := h
    exact issued.faultTold_takeFault (f := .transportError) ⟨done, last, rfl, failed, completed⟩
  · obtain ⟨_, _, issued, _⟩ := h
    exact issued.faultTold_of_hung i

theorem Issued.faultTold_finishSample {s u : State} {events : List BusEvent} (i : Instr) (h : Issued s events u)
    (completed : allCompleted events) (rng : RangeCode) (burst : Burst) :
    FaultTold s i (u.finishSample (encode i) rng burst) := by
  obtain ⟨_, e⟩ | ⟨r, _, e⟩ := finishSample_cases u (encode i) rng burst
  · rw [e]
    exact h.faultTold_takeFault (f := .rangeReserved) completed
  · rw [e]
    exact Issued.faultTold_ok (events := events) i ⟨h.history, h.trace⟩ _

/-- The primitives of a command that ends with a fault go with that fault. -/
theorem exec_faultTold {i : Instr} {s t : State} (h : exec i s = .next t) : FaultTold s i t := by
  have start := Issued.accept s
  have noneYet : allCompleted [] := List.forall_mem_nil _
  cases i with
  | wrreg addr value =>
    cases h
    exact (memWrite_transacted start noneYet addr value).faultTold fun _ _ _ issued _ => issued.faultTold_ok _ _
  | rdreg addr =>
    cases h
    exact (memRead_transacted start noneYet addr 1).faultTold fun _ _ _ issued _ => issued.faultTold_ok _ _
  | rdblk addr count =>
    cases h
    split
    case isTrue zero =>
      exact start.faultTold_takeFault (f := .illegalCommand) ⟨rfl, by simp [Instr.wellFormed, zero]⟩
    case isFalse =>
      exact (memRead_transacted start noneYet addr count.toNat).faultTold fun _ _ _ issued _ => issued.faultTold_ok _ _
  | decode rng b0 b1 b2 b3 b4 b5 =>
    cases h
    exact start.faultTold_finishSample _ noneYet rng _
  | acquire =>
    cases h
    refine (memRead_transacted start noneYet _ 6).faultTold fun burst events u issued completed => ?_
    exact (memRead_transacted issued completed _ 1).faultTold fun _ _ _ issued' completed' =>
      issued'.faultTold_finishSample _ completed' _ _

/-- A command that ends with a fault has no data and leaves the sample, SEQ idle and a released bus released (R197). -/
theorem exec_fault_block {i : Instr} {s t : State} {f : CommandFault} {data : List Byte} (h : exec i s = .next t)
    (fault : t.history = s.history ++ [⟨encode i, ⟨.fault f, data⟩⟩]) :
    data = [] ∧ t.block.sampleOf = s.block.sampleOf ∧ t.block.seq = .idle ∧
      (s.block.busHeld = false → t.block.busHeld = false) := by
  cases exec_ran h with
  | hung _ _ history => simp [history] at fault
  | fault _ sample seq held history =>
    obtain ⟨-, rfl⟩ : _ ∧ [] = data := by simpa [history] using fault
    exact ⟨rfl, sample, seq, held⟩
  | plain _ _ _ _ history => simp [history] at fault
  | stored _ _ _ _ _ history => simp [history] at fault

/-- What R197 says of a command that ran from `s` to `t` and answered with a fault and this data; and only a command
that is not well-formed answers `IllegalCommand` (log 15). -/
structure Faulted (i : Instr) (s t : State) (f : CommandFault) (data : List Byte) : Prop where
  data : data = []
  sample : t.block.sampleOf = s.block.sampleOf
  seq : t.block.seq = .idle
  held : s.block.busHeld = false → t.block.busHeld = false
  illegal : f = .illegalCommand → t.trace = s.trace ∧ i.wellFormed = false
  transport : f = .transportError → ∃ (done : List BusEvent) (last : BusEvent),
    t.trace = s.trace ++ done ++ [last] ∧ last.reply = .fail ∧ allCompleted done
  reserved : f = .rangeReserved → ∃ done : List BusEvent, t.trace = s.trace ++ done ∧ allCompleted done
  frame : t = { s with block := t.block, device := t.device, trace := t.trace, history := t.history }

theorem exec_faulted {i : Instr} {s t : State} {f : CommandFault} {data : List Byte} (h : exec i s = .next t)
    (fault : t.history = s.history ++ [⟨encode i, ⟨.fault f, data⟩⟩]) : Faulted i s t f data := by
  obtain ⟨empty, sample, seq, held⟩ := exec_fault_block h fault
  obtain ⟨events, trace, fits⟩ := exec_faultTold h f data fault
  refine ⟨empty, sample, seq, held, ?_, ?_, ?_, exec_frame h⟩
  · rintro rfl
    obtain ⟨rfl, wf⟩ := fits
    exact ⟨by simpa using trace, wf⟩
  · rintro rfl
    obtain ⟨done, last, rfl, failed, completed⟩ := fits
    exact ⟨done, last, by rw [trace, List.append_assoc], failed, completed⟩
  · rintro rfl
    exact ⟨events, trace, fits⟩

/-- Settles O28: a command by what holds of its faults; a word that decodes by the command it runs, which is well-formed
and so never `IllegalCommand`; and an illegal word by the state in which it is answered. -/
theorem aFaultChangesNoStateOfTheBlock : Obligations.AFaultChangesNoStateOfTheBlock := by
  refine ⟨fun i s t f data h fault => ?_, fun s t c f data idle port h fault => ?_⟩
  · obtain ⟨empty, sample, seq, held, illegal, transport, reserved, frame⟩ := exec_faulted h fault
    exact ⟨empty, sample, seq, held, fun e => (illegal e).1, transport, reserved, frame⟩
  cases hc : decode c with
  | ok i =>
    rw [stepRunsTheDecodedCommand s c i idle port hc] at h
    rw [← encode_of_decode hc] at fault
    obtain ⟨empty, sample, seq, held, illegal, transport, reserved, frame⟩ :=
      exec_faulted (s := { s with port := none }) h fault
    have legal : f ≠ .illegalCommand := fun e => by simpa [wellFormed_of_decode hc] using (illegal e).2
    have notIllegal : ¬ illegalWord c := not_illegalWord_of_spells (spells_of_decode hc)
    exact ⟨empty, sample, seq, held, iff_of_false legal notIllegal, fun e => absurd e legal, transport, reserved,
      frame⟩
  | error e =>
    have illegal := illegalWord_of_decode_error hc
    rw [step_illegal idle port illegal] at h
    cases h
    obtain ⟨rfl, rfl⟩ : f = .illegalCommand ∧ data = [] := by simpa [eq_comm] using fault
    exact ⟨rfl, rfl, idle, id, iff_of_true rfl illegal, fun _ => ⟨rfl, rfl, rfl⟩, nofun, nofun, rfl⟩

end Sys2Proof.Proofs
end

section
/-! A primitive that never returns, at each place in its command (R114, R232, U12; log 5): the command stays in progress
in the state that its primitives so far have left. -/

namespace Sys2Proof.Proofs

open Sys2Proof.Machine Sys2Proof.Laws

/-- `MemRead` whose address write never returns: no read is issued and the bus is as it was (R28, R52). -/
theorem memRead_of_select_never {s : State} {d : Device} {addr : Byte} (n : Nat)
    (h : s.device.write [addr] true = (.never, d)) :
    s.memRead addr n =
      (.never, { s with device := d, trace := s.trace ++ [.write s.config.devAddr [addr] true .never] }) := by
  simp only [State.memRead, busWrite_of_reply _ h, heldAfterWrite_never]

/-- WRREG whose write never returns (R114). -/
theorem exec_wrreg_of_never {addr value : Byte} {s : State} {d : Device}
    (h : s.device.write [addr, value] false = (.never, d)) :
    exec (.wrreg addr value) s = .next { s with
      block := { s.block with seq := .busy }
      device := d
      trace := s.trace ++ [.write s.config.devAddr [addr, value] false .never] } := by
  rw [exec_wrreg, State.memWrite, busWrite_of_reply (s := s.accept) _ h]
  rfl

/-- The command, run from `s`, starts with a register read transaction of `n` bytes from `addr`; what it does with the
bytes is its own. -/
def StartsWithRead (i : Instr) (addr : Byte) (n : Nat) (s : State) : Prop :=
  ∃ next, exec i s = .next (afterTransaction (encode i) (s.accept.memRead addr n) next)

/-- Every read command starts so. -/
theorem IsRead.startsWithRead {i : Instr} {addr : Byte} {n : Nat} (hi : IsRead i addr n) (s : State) :
    StartsWithRead i addr n s := ⟨_, hi s⟩

/-- ACQUIRE starts with the burst (R138). -/
theorem acquire_startsWithRead (s : State) : StartsWithRead .acquire s.config.regOutXMsb 6 s := ⟨_, exec_acquire s⟩

/-- A command stays where a first transaction left it that never returned (R114). -/
theorem StartsWithRead.exec_of_never {i : Instr} {addr : Byte} {n : Nat} {s t : State}
    (starts : StartsWithRead i addr n s) (h : s.accept.memRead addr n = (.never, t)) : exec i s = .next t := by
  obtain ⟨next, run⟩ := starts
  rw [run, h, afterTransaction_never]

/-- ACQUIRE stays where its second transaction left it, if that never returned (R114, R138). -/
theorem exec_acquire_of_range_never {s t : State} {d₁ d₂ : Device} {burst : List Byte}
    (select : s.device.write [s.config.regOutXMsb] true = (.ok [], d₁)) (read : d₁.read 6 = (.ok burst, d₂))
    (h : (afterBurst d₂ burst s).memRead s.config.regXyzDataCfg 1 = (.never, t)) : exec .acquire s = .next t := by
  rw [exec_acquire_of_burst select read, h, afterTransaction_never]

/-- Settles O16: the write of WRREG; the two primitives of a first read transaction, whichever command starts with it;
and the two of the second transaction of ACQUIRE. -/
theorem aPrimitiveThatNeverReturnsLeavesTheBlockBusy : Obligations.APrimitiveThatNeverReturnsLeavesTheBlockBusy := by
  refine ⟨fun _ _ _ _ => exec_wrreg_of_never, fun i addr count n s command => ?_,
    fun s d₁ d₂ d₃ burst select read => ⟨fun never => ?_, fun d₄ select' never => ?_⟩⟩
  · have starts : StartsWithRead i addr n s := by
      obtain ⟨rfl, rfl⟩ | ⟨rfl, pos, rfl⟩ | ⟨rfl, rfl, rfl⟩ := command
      · exact (isRead_rdreg addr).startsWithRead s
      · exact (isRead_rdblk addr pos).startsWithRead s
      · exact acquire_startsWithRead s
    exact ⟨fun _ never => starts.exec_of_never (memRead_of_select_never (s := s.accept) n never),
      fun _ _ select never => starts.exec_of_never (memRead_of_selected (s := s.accept) select never)⟩
  · rw [exec_acquire_of_range_never select read (memRead_of_select_never (s := afterBurst d₂ burst s) 1 never)]
    simp [afterBurst]
  · rw [exec_acquire_of_range_never select read (memRead_of_selected (s := afterBurst d₂ burst s) select' never)]
    simp [afterBurst]

end Sys2Proof.Proofs
end

section
/-! Commands that the outside presents one by one, with no host procedure: the run taken apart as that of a procedure is,
and a bare range write under the law of R43 in the form log 26 gives it (R226). -/

namespace Sys2Proof.Proofs

open Sys2Proof.Machine Sys2Proof.Laws

/-- A free host presents the next word of its inputs. -/
theorem step_of_command {s : State} {c : CommandWord} {rest : List Input} (free : s.hostFree)
    (inputs : s.inputs = .command c :: rest) : step s = .next { s with port := some c, inputs := rest } := by
  obtain ⟨hseq, hport, hjob⟩ := free
  simp only [step, hseq, idleStep, hport, State.hostStep, hjob, State.takeInput, inputs]

/-- Presenting the word of a command and running it are two steps (R80, R85). -/
theorem stepN_of_command {s : State} {i : Instr} {rest : List Input} (free : s.hostFree)
    (inputs : s.inputs = .command (encode i) :: rest) (wf : i.wellFormed = true) :
    stepN 2 s = exec i { s with inputs := rest } := by
  obtain ⟨u, ran⟩ := exec_completes i { s with inputs := rest }
  rw [stepN_of_step (step_of_command free inputs)]
  obtain ⟨idle, port, _⟩ := free
  have run : step { s with port := some (encode i), inputs := rest } = .next u := by
    rw [step_of_spells (s := { s with port := some (encode i), inputs := rest }) idle rfl (spells_encode wf), ← ran,
      ← port]
  rw [stepN_of_step run, stepN, ran]

/-- The next command of a run is run, and its primitives complete. -/
theorem CompletedRun.ran {k : Nat} {s t : State} {i : Instr} {rest : List Input} {log : List RegAccess}
    (run : CompletedRun (k + 2) s t log) (free : s.hostFree) (inputs : s.inputs = .command (encode i) :: rest)
    (wf : i.wellFormed = true) :
    ∃ u events, exec i { s with inputs := rest } = .next u ∧ u.trace = s.trace ++ events ∧ allCompleted events := by
  obtain ⟨u, ran⟩ := exec_completes i { s with inputs := rest }
  rw [Nat.add_comm] at run
  obtain ⟨events, _, trace, completed, _⟩ := run.rest ((stepN_of_command free inputs wf).trans ran)
  exact ⟨u, events, ran, trace, completed⟩

/-- The next command of a run, once it is known that the device completed its access. -/
theorem CompletedRun.command {k : Nat} {s t : State} {x : RegAccess} {d : Device} {rest : List Input}
    {log : List RegAccess} (run : CompletedRun (k + 2) s t log) (free : s.hostFree)
    (inputs : s.inputs = .command (encode (commandOf x)) :: rest) (completes : Completes s.device x d) :
    ∃ log', log = x :: log' ∧ CompletedRun k (served [x] d { s with inputs := rest }) t log' := by
  have ran : stepN 2 s = .next (served [x] d { s with inputs := rest }) := by
    rw [stepN_of_command free inputs (commandOf_wellFormed x),
      exec_of_completes (s := { s with inputs := rest }) completes,
      afterResponse_eq_served (s := { s with inputs := rest }) free.1]
  rw [Nat.add_comm] at run
  obtain ⟨events, later, trace, _, rfl, next⟩ := run.rest ran
  obtain rfl : events = frameOf s.config.devAddr x := by simpa [served] using trace.symm
  exact ⟨_, accesses_frameOf _ _ _, next⟩

/-- A presented RDREG of a run reads its register. -/
theorem CompletedRun.readCommand {k : Nat} {s t : State} {a : Byte} {rest : List Input} {log : List RegAccess}
    (run : CompletedRun (k + 2) s t log) (free : s.hostFree)
    (inputs : s.inputs = .command (encode (.rdreg a)) :: rest) :
    ∃ c d log', log = .readAs a c :: log' ∧
      CompletedRun k (served [.readAs a c] d { s with inputs := rest }) t log' := by
  obtain ⟨u, events, ran, trace, completed⟩ := run.ran free inputs rfl
  obtain ⟨c, d, completes⟩ := exec_rdreg_completes (s := { s with inputs := rest }) ran trace completed
  exact ⟨c, d, run.command free inputs completes⟩

/-- A presented WRREG of a run writes its register. -/
theorem CompletedRun.writeCommand {k : Nat} {s t : State} {a v : Byte} {rest : List Input} {log : List RegAccess}
    (run : CompletedRun (k + 2) s t log) (free : s.hostFree)
    (inputs : s.inputs = .command (encode (.wrreg a v)) :: rest) :
    ∃ d log', log = .wrote a v :: log' ∧
      CompletedRun k (served [.wrote a v] d { s with inputs := rest }) t log' := by
  obtain ⟨u, events, ran, trace, completed⟩ := run.ran free inputs rfl
  obtain ⟨d, completes⟩ := exec_wrreg_completes (s := { s with inputs := rest }) ran trace completed
  exact ⟨d, run.command free inputs completes⟩

/-- Outside a device reset a read of the data-config register shows the range (R36). -/
theorem afterRead_range {cfg : Config} (traits : DeviceTraits) (active : Option Bool) (range : Option RangeCode)
    (v : Byte) (apart : cfg.regXyzDataCfg ≠ cfg.regCtrl1) (apart' : cfg.regXyzDataCfg ≠ cfg.regCtrl2) :
    DeviceView.afterRead cfg traits cfg.regXyzDataCfg v ⟨active, range, .settled⟩ =
      ⟨active, some (rangeField v), .settled⟩ := by
  simp [DeviceView.afterRead, apart, apart']

/-- The accesses of R226 before its last read: the active bit and the range read, and a range written. -/
def bareWriteAccesses (cfg : Config) (control before v : Byte) : List RegAccess :=
  [.readAs cfg.regCtrl1 control, .readAs cfg.regXyzDataCfg before, .wrote cfg.regXyzDataCfg v]

/-- After a bare range write the device holds the old range if it is active, and else the new one (R43, R226). -/
theorem view_after_bareWrite {cfg : Config} {traits : DeviceTraits} {w : DeviceView} (control before v : Byte)
    (settled : w.phase = .settled) (h₁ : cfg.regCtrl1 ≠ cfg.regXyzDataCfg) (h₂ : cfg.regCtrl2 ≠ cfg.regCtrl1)
    (h₃ : cfg.regCtrl2 ≠ cfg.regXyzDataCfg) :
    ((bareWriteAccesses cfg control before v).foldl (DeviceView.after cfg traits) w).range =
      some (if ctrl1Active control then rangeField before else rangeField v) := by
  obtain ⟨active, range, phase⟩ := w
  obtain rfl : phase = .settled := settled
  simp only [bareWriteAccesses, List.foldl, DeviceView.after]
  rw [afterRead_control traits _ _ control h₂, afterRead_range traits _ _ before h₁.symm h₃.symm]
  cases bit : ctrl1Active control with
  | true => rw [afterWrite_rangeWhileActive rfl rfl h₁.symm h₃.symm, if_pos rfl]
  | false => rw [afterWrite_rangeInStandby rfl rfl h₁.symm h₃.symm, if_neg Bool.false_ne_true]

/-- Settles O55: the run is that of the four commands, and the law ties the byte of the last read to the range that the
write before it left. -/
theorem aBareRangeWriteWhileActiveIsIgnored : Obligations.ABareRangeWriteWhileActiveIsIgnored := by
  intro s t v events traits w free inputs h₁ h₂ h₃ steps trace completed settled law
  have run : CompletedRun 8 s t (accesses events) := ⟨events, steps, trace, completed, rfl⟩
  obtain ⟨control, d₁, log₁, made, controlRead⟩ := run.readCommand free inputs
  obtain ⟨before, d₂, log₂, rfl, rangeRead⟩ := controlRead.readCommand free rfl
  obtain ⟨d₃, log₃, rfl, written⟩ := rangeRead.writeCommand free rfl
  obtain ⟨after, d₄, log₄, rfl, _, done, _⟩ := written.readCommand free rfl
  cases done
  rw [made] at law
  have range : rangeField after = if ctrl1Active control then rangeField before else rangeField v :=
    rangeField_of_law (xs := bareWriteAccesses s.config control before v) law
      (view_after_bareWrite control before v settled h₁ h₂ h₃)
  refine ⟨control, before, after, ?_, fun active => ?_, fun standby => ?_⟩
  · simp [served, commandOf, dataOf]
  · rw [range, if_pos active]
  · rw [range, if_neg (by simp [standby])]

end Sys2Proof.Proofs
end

section
/-! The branches of a step, and how a step can end: every branch answers a next state but the one of a busy block that
is reset (R9, R26, R197, R205, R220; U6, log 12). -/

namespace Sys2Proof.Proofs

open Sys2Proof.Machine Sys2Proof.Laws

/-- A free host with nothing left to do keeps the state (R205). -/
theorem step_of_done {s : State} (free : s.hostFree) (inputs : s.inputs = []) : step s = .next s := by
  obtain ⟨idle, port, hjob⟩ := free
  simp only [step, idle, idleStep, port, State.hostStep, hjob, State.takeInput, inputs]

/-- An idle block with nothing presented leaves the step to the outside. -/
theorem step_of_noWord {s : State} (idle : s.block.seq = .idle) (port : s.port = none) :
    step s = .next s.hostStep := by
  simp only [step, idle, idleStep, port]

/-- A busy block accepts nothing (R26). -/
theorem step_of_busy {s : State} (busy : s.block.seq = .busy) (noReset : s.inputs.head? ≠ some .reset) :
    step s = .next s := by
  simp only [step, busy, busyStep, if_neg noReset]

/-- A reset of a busy block is outside the model (R220, U6). -/
theorem step_of_busyReset {s : State} (busy : s.block.seq = .busy) (reset : s.inputs.head? = some .reset) :
    step s = .refused .resetWhileBusy := by
  simp only [step, busy, busyStep, if_pos reset]

/-- An idle block answers the word on its port, be it a command or illegal. -/
theorem step_of_word {s : State} {c : CommandWord} (idle : s.block.seq = .idle) (port : s.port = some c) :
    ∃ t, step s = .next t := by
  obtain ⟨i, _, fields⟩ | ⟨_, _, illegal⟩ := decode_cases c
  · rw [step_of_spells idle port fields]
    exact exec_completes i _
  · exact ⟨_, step_illegal idle port illegal⟩

/-- The two ends of a step. -/
theorem step_next_or_busyReset (s : State) :
    (∃ t, step s = .next t) ∨
      (s.block.seq = .busy ∧ s.inputs.head? = some .reset ∧ step s = .refused .resetWhileBusy) := by
  cases seq : s.block.seq with
  | idle =>
    refine .inl ?_
    cases port : s.port with
    | none => exact ⟨_, step_of_noWord seq port⟩
    | some c => exact step_of_word seq port
  | busy =>
    by_cases reset : s.inputs.head? = some .reset
    · exact .inr ⟨rfl, reset, step_of_busyReset seq reset⟩
    · exact .inl ⟨_, step_of_busy seq reset⟩

/-- Settles O9, by the two ends of a step: a next state is no fault and no refusal, and the refusal is that of a busy
block that is reset. -/
theorem noStepFaultsAndOnlyABusyResetIsRefused : Obligations.NoStepFaultsAndOnlyABusyResetIsRefused := by
  intro s
  obtain ⟨t, next⟩ | ⟨busy, reset, refused⟩ := step_next_or_busyReset s
  · simp [next]
  · simp [refused, busy, reset]

/-- A busy block whose next input is no reset: the case of the second clause of O8. -/
theorem witness_busyBlockWithoutReset :
    ∃ s : State, s.block.seq = .busy ∧ s.inputs.head? ≠ some .reset ∧ step s = .next s :=
  have noReset : State.reset.accept.inputs.head? ≠ some .reset := by simp [State.reset]
  ⟨State.reset.accept, rfl, noReset, step_of_busy rfl noReset⟩

/-- Settles O8: the branches of a step with nothing to do, of a busy block, and of a busy block that is reset. -/
theorem idleAndBusyStepsKeepTheState : Obligations.IdleAndBusyStepsKeepTheState :=
  ⟨fun _ => step_of_done, fun _ => step_of_busy, fun _ => step_of_busyReset⟩

end Sys2Proof.Proofs
end

section
/-! Tables of the encoding on their own values (Tables 30-1 and 30-3), RDBLK of no bytes (log 15), and the invariant at
reset. -/

namespace Sys2Proof.Proofs

open Sys2Proof.Machine Sys2Proof.Laws

/-- Settles O1: the decoder run on each of the seven words. -/
theorem specWordsDecodeToTheirCommands : Obligations.SpecWordsDecodeToTheirCommands := by
  refine ⟨?_, ?_, ?_, ?_, ?_, ?_, ?_⟩ <;> decide

/-- Settles O30: the four codes by their definitions, and that there is no other by `status_code_lt`. -/
theorem statusCodes : Obligations.StatusCodes := ⟨rfl, rfl, rfl, rfl, status_code_lt⟩

/-- Settles O13: RDBLK tests its count before any bus activity, and count 0 takes the branch of an illegal word. -/
theorem rdblkCountZeroIsIllegal : Obligations.RdblkCountZeroIsIllegal := by
  intro addr s
  have rejected : exec (.rdblk addr 0) s = .next (s.rejectIllegal (encode (.rdblk addr 0))) := by
    simp only [exec, execRdblk, if_pos]
  rw [rejected]
  rfl

/-- Settles O34: after reset the block is idle with the bus released and no sample, and nothing has been sent, answered
or stored. -/
theorem resetMeetsTheInvariant : Obligations.ResetMeetsTheInvariant where
  released _ := rfl
  sample valid := absurd valid Bool.false_ne_true
  framed := rfl
  addressed _ sent := absurd sent List.not_mem_nil
  shaped _ answered := absurd answered List.not_mem_nil
  store := rfl

end Sys2Proof.Proofs
end
